-- ==== Sys2Proof/Word.lean ====
section
/-! DEFINITION. The plain value types of the hardware: registers, words, operand fields (R5, R6, R82). -/

namespace Sys2Proof

/-- A byte of memory, a general register or a timer (R21, R26, R50). -/
abbrev Byte := BitVec 8

/-- An instruction word, the index register, the program counter or a return address (R23 to R25, R80). -/
abbrev Word := BitVec 16

/-- A 4-bit value: the sprite height `N` or a key code (R29, R82). -/
abbrev Nibble := BitVec 4

/-- The 12-bit address operand `NNN` (R82). -/
abbrev Addr := BitVec 12

/-- The index of a general register, `X` or `Y` of an instruction: 0 to 15 (R21, R82). -/
abbrev Reg := Fin 16

end Sys2Proof
end

