-- ==== Sys2Proof/Config.lean ====
section
/-! DEFINITION. What is fixed for the machine (R5, the rows marked "fixed") and the free values of the
model. The rows marked "decided" (`STACK_DEPTH`, `FONT_BASE`, `FONT`) stand in Machine/Params.lean. -/

namespace Sys2Proof.Config

/-- `MEM_SIZE` (R5, R50). -/
def memSize : Nat := 4096

/-- `PROG_BASE`, the address of the first byte of the program image (R5, R51). -/
def progBase : Nat := 0x200

/-- `PROG_MAX`, the greatest length of a program image (R5, R311). -/
def progMax : Nat := 3584

/-- `FB_WIDTH` (R5, R220). -/
def fbWidth : Nat := 64

/-- `FB_HEIGHT` (R5, R220). -/
def fbHeight : Nat := 32

/-- `GLYPH_STRIDE` (R5, R203). -/
def glyphStride : Nat := 5

/-- FREE VALUE (R182, D14, U4; log entry 3): the byte on the input `rnd` at the n-th draw. It has no
body, so no proof knows a value of it. -/
opaque randomByte : Nat → Byte

/-- FREE VALUE (R111, U17; log entry 15): what the decoder's `tag` port carries for a word that does
not decode. It has no body, so no proof knows a value of it. -/
opaque invalidTag : Word → BitVec 6

end Sys2Proof.Config
end

