-- ==== Sys2Proof/Syntax.lean ====
section
/-! DEFINITION. The decoded instruction: one constructor per row of the opcode table, carrying exactly
the operands of R112, in its order. -/

namespace Sys2Proof

/-- The tagged instruction value the decoder produces (R112). -/
inductive Instr where
  /-- `00E0` (R227). -/
  | clearScreen
  /-- `00EE`, the table's `return` (R151). -/
  | ret
  /-- `1NNN` (R152). -/
  | jump (nnn : Addr)
  /-- `2NNN` (R153). -/
  | call (nnn : Addr)
  /-- `3XNN` (R155). -/
  | skipEq (x : Reg) (nn : Byte)
  /-- `4XNN` (R156). -/
  | skipNeq (x : Reg) (nn : Byte)
  /-- `5XY0` (R157). -/
  | skipRegEq (x y : Reg)
  /-- `6XNN` (R171). -/
  | set (x : Reg) (nn : Byte)
  /-- `7XNN` (R172). -/
  | addImm (x : Reg) (nn : Byte)
  /-- `8XY0` (R173). -/
  | copy (x y : Reg)
  /-- `8XY1` (R174). -/
  | or (x y : Reg)
  /-- `8XY2` (R175). -/
  | and (x y : Reg)
  /-- `8XY3` (R176). -/
  | xor (x y : Reg)
  /-- `8XY4` (R177). -/
  | add (x y : Reg)
  /-- `8XY5` (R178). -/
  | sub (x y : Reg)
  /-- `8XY6`, `Y` ignored (R180, R87). -/
  | shiftRight (x : Reg)
  /-- `8XY7` (R179). -/
  | subn (x y : Reg)
  /-- `8XYE`, `Y` ignored (R181, R87). -/
  | shiftLeft (x : Reg)
  /-- `9XY0` (R158). -/
  | skipRegNeq (x y : Reg)
  /-- `ANNN` (R201). -/
  | setI (nnn : Addr)
  /-- `BNNN` (R154). -/
  | jumpWithOffset (nnn : Addr)
  /-- `CXNN` (R182). -/
  | setRandom (x : Reg) (nn : Byte)
  /-- `DXYN` (R228). -/
  | draw (x y : Reg) (n : Nibble)
  /-- `EX9E` (R257). -/
  | skipKeyPressed (x : Reg)
  /-- `EXA1` (R258). -/
  | skipKeyNotPressed (x : Reg)
  /-- `FX07` (R251). -/
  | getDelay (x : Reg)
  /-- `FX0A` (R259). -/
  | getKey (x : Reg)
  /-- `FX15` (R252). -/
  | setDelay (x : Reg)
  /-- `FX18` (R253). -/
  | setSound (x : Reg)
  /-- `FX1E` (R202). -/
  | addI (x : Reg)
  /-- `FX29` (R203). -/
  | fontAddr (x : Reg)
  /-- `FX33` (R204). -/
  | bcd (x : Reg)
  /-- `FX55` (R205). -/
  | storeRegs (x : Reg)
  /-- `FX65` (R206). -/
  | loadRegs (x : Reg)
  deriving DecidableEq, Repr

end Sys2Proof
end

