-- ==== Sys2Proof/Decode.lean ====
section
/-! DEFINITION. The block `chip8_decoder`: the operand fields (R82), the decoding algorithm (R113), its
ports (R111, R112), decoding from bytes, and the encoder (R92). -/

namespace Sys2Proof

/-! ## Fields of a word (R81, R82) -/

/-- `n3`, bits 15:12, the family. -/
def famOf (w : Word) : Nibble := w.extractLsb' 12 4

/-- `X`, bits 11:8. -/
def xOf (w : Word) : Reg := (w.extractLsb' 8 4).toFin

/-- `Y`, bits 7:4. -/
def yOf (w : Word) : Reg := (w.extractLsb' 4 4).toFin

/-- `N`, bits 3:0. -/
def nOf (w : Word) : Nibble := w.extractLsb' 0 4

/-- `NN`, bits 7:0. -/
def nnOf (w : Word) : Byte := w.extractLsb' 0 8

/-- `NNN`, bits 11:0. -/
def nnnOf (w : Word) : Addr := w.extractLsb' 0 12

/-! ## The decoding function -/

/-- Family 0x0: the whole word selects (R84, R113). -/
def decode0 (w : Word) : Option Instr :=
  if w = 0x00E0#16 then some .clearScreen
  else if w = 0x00EE#16 then some .ret
  else none

/-- Family 0x8: `N` selects; the shifts drop `Y` (R84, R87, R113). -/
def decode8 (w : Word) : Option Instr :=
  match (nOf w).toNat with
  | 0x0 => some (.copy (xOf w) (yOf w))
  | 0x1 => some (.or (xOf w) (yOf w))
  | 0x2 => some (.and (xOf w) (yOf w))
  | 0x3 => some (.xor (xOf w) (yOf w))
  | 0x4 => some (.add (xOf w) (yOf w))
  | 0x5 => some (.sub (xOf w) (yOf w))
  | 0x6 => some (.shiftRight (xOf w))
  | 0x7 => some (.subn (xOf w) (yOf w))
  | 0xE => some (.shiftLeft (xOf w))
  | _ => none

/-- Family 0xE: `NN` selects (R84, R113). -/
def decodeE (w : Word) : Option Instr :=
  match (nnOf w).toNat with
  | 0x9E => some (.skipKeyPressed (xOf w))
  | 0xA1 => some (.skipKeyNotPressed (xOf w))
  | _ => none

/-- Family 0xF: `NN` selects (R84, R113). -/
def decodeF (w : Word) : Option Instr :=
  match (nnOf w).toNat with
  | 0x07 => some (.getDelay (xOf w))
  | 0x0A => some (.getKey (xOf w))
  | 0x15 => some (.setDelay (xOf w))
  | 0x18 => some (.setSound (xOf w))
  | 0x1E => some (.addI (xOf w))
  | 0x29 => some (.fontAddr (xOf w))
  | 0x33 => some (.bcd (xOf w))
  | 0x55 => some (.storeRegs (xOf w))
  | 0x65 => some (.loadRegs (xOf w))
  | _ => none

/-- `Decode(word)` of R113; `none` is the decode failure (R88, R114). -/
def decode (w : Word) : Option Instr :=
  match (famOf w).toNat with
  | 0x0 => decode0 w
  | 0x1 => some (.jump (nnnOf w))
  | 0x2 => some (.call (nnnOf w))
  | 0x3 => some (.skipEq (xOf w) (nnOf w))
  | 0x4 => some (.skipNeq (xOf w) (nnOf w))
  | 0x5 => if nOf w = 0#4 then some (.skipRegEq (xOf w) (yOf w)) else none
  | 0x6 => some (.set (xOf w) (nnOf w))
  | 0x7 => some (.addImm (xOf w) (nnOf w))
  | 0x8 => decode8 w
  | 0x9 => if nOf w = 0#4 then some (.skipRegNeq (xOf w) (yOf w)) else none
  | 0xA => some (.setI (nnnOf w))
  | 0xB => some (.jumpWithOffset (nnnOf w))
  | 0xC => some (.setRandom (xOf w) (nnOf w))
  | 0xD => some (.draw (xOf w) (yOf w) (nOf w))
  | 0xE => decodeE w
  | _ => decodeF w

/-! ## The decoder's ports (R111, R112) -/

/-- The tag code of a form, 0 to 33 in the order of the opcode map (R112, D5). -/
def tagCode : Instr → BitVec 6
  | .clearScreen => 0
  | .ret => 1
  | .jump _ => 2
  | .call _ => 3
  | .skipEq _ _ => 4
  | .skipNeq _ _ => 5
  | .skipRegEq _ _ => 6
  | .set _ _ => 7
  | .addImm _ _ => 8
  | .copy _ _ => 9
  | .or _ _ => 10
  | .and _ _ => 11
  | .xor _ _ => 12
  | .add _ _ => 13
  | .sub _ _ => 14
  | .shiftRight _ => 15
  | .subn _ _ => 16
  | .shiftLeft _ => 17
  | .skipRegNeq _ _ => 18
  | .setI _ => 19
  | .jumpWithOffset _ => 20
  | .setRandom _ _ => 21
  | .draw _ _ _ => 22
  | .skipKeyPressed _ => 23
  | .skipKeyNotPressed _ => 24
  | .getDelay _ => 25
  | .getKey _ => 26
  | .setDelay _ => 27
  | .setSound _ => 28
  | .addI _ => 29
  | .fontAddr _ => 30
  | .bcd _ => 31
  | .storeRegs _ => 32
  | .loadRegs _ => 33

/-- The output ports of `chip8_decoder` (R111). -/
structure DecoderPorts where
  valid : Bool
  tag : BitVec 6
  x : Nibble
  y : Nibble
  n : Nibble
  nn : Byte
  nnn : Addr
  deriving DecidableEq, Repr

/-- The block as hardware: the operand ports carry the raw slices whatever the tag; `tag` is a free
value where `valid` is 0 (R111, U17). -/
def decoderPorts (w : Word) : DecoderPorts where
  valid := (decode w).isSome
  tag := match decode w with
    | some i => tagCode i
    | none => Config.invalidTag w
  x := w.extractLsb' 8 4
  y := w.extractLsb' 4 4
  n := w.extractLsb' 0 4
  nn := w.extractLsb' 0 8
  nnn := w.extractLsb' 0 12

/-! ## Decoding from bytes -/

/-- Why a byte sequence gives no instruction. -/
inductive DecodeReject where
  /-- Fewer than the two bytes of a word are there (R80). -/
  | truncated
  /-- The word matches no form: the decode failure (R88). -/
  | noForm (word : Word)
  deriving DecidableEq, Repr

/-- The word of two bytes, the byte at the lower address the more significant one (R54, D2). -/
def wordOfBytes (hi lo : Byte) : Word := hi ++ lo

/-- The byte of a word that lies at the lower address (R54). -/
def hiByte (w : Word) : Byte := w.extractLsb' 8 8

/-- The byte of a word that lies at the higher address (R54). -/
def loByte (w : Word) : Byte := w.extractLsb' 0 8

/-- The instruction at the head of a byte sequence, with the bytes after it; total, rejecting by name. -/
def decodeBytes : List Byte → Except DecodeReject (Instr × List Byte)
  | hi :: lo :: rest =>
    match decode (wordOfBytes hi lo) with
    | some i => .ok (i, rest)
    | none => .error (.noForm (wordOfBytes hi lo))
  | _ => .error .truncated

/-- A word given as a number of `nbits` bits, every bit above them 0. -/
def tableWord (nbits w : Nat) : Word := BitVec.ofNat 16 (w % 2 ^ nbits)

/-- The bytes of a word in the order memory holds them (R54). -/
def bytesOfWord (w : Word) : List Byte := [hiByte w, loByte w]

/-- What the decoder reads from an instruction of `nbits` bits `w`, numbered as the opcode table
numbers them: laid out in bytes as memory holds them and decoded from there. -/
def decodeTableWord (nbits w : Nat) : Option Instr :=
  match decodeBytes (bytesOfWord (tableWord nbits w)) with
  | .ok (i, _) => some i
  | .error _ => none

/-! ## The encoder (R92) -/

/-- A register index as the 4 bits of a field (R82). -/
def regBits (x : Reg) : Nibble := BitVec.ofFin x

/-- A word of format A: family, `NNN` (R83). -/
def wordA (fam : Nibble) (nnn : Addr) : Word := fam ++ nnn

/-- A word of format XI or XS: family, `X`, low byte (R83). -/
def wordXI (fam : Nibble) (x : Reg) (nn : Byte) : Word := (fam ++ regBits x : Byte) ++ nn

/-- A word of format XY or XYN: family, `X`, `Y`, low nibble (R83). -/
def wordXY (fam : Nibble) (x y : Reg) (n : Nibble) : Word :=
  (fam ++ regBits x : Byte) ++ (regBits y ++ n : Byte)

/-- The word of an instruction; the shifts encode `Y = 0` (R85, R92). -/
def encode : Instr → Word
  | .clearScreen => 0x00E0
  | .ret => 0x00EE
  | .jump nnn => wordA 0x1 nnn
  | .call nnn => wordA 0x2 nnn
  | .skipEq x nn => wordXI 0x3 x nn
  | .skipNeq x nn => wordXI 0x4 x nn
  | .skipRegEq x y => wordXY 0x5 x y 0x0
  | .set x nn => wordXI 0x6 x nn
  | .addImm x nn => wordXI 0x7 x nn
  | .copy x y => wordXY 0x8 x y 0x0
  | .or x y => wordXY 0x8 x y 0x1
  | .and x y => wordXY 0x8 x y 0x2
  | .xor x y => wordXY 0x8 x y 0x3
  | .add x y => wordXY 0x8 x y 0x4
  | .sub x y => wordXY 0x8 x y 0x5
  | .shiftRight x => wordXY 0x8 x 0 0x6
  | .subn x y => wordXY 0x8 x y 0x7
  | .shiftLeft x => wordXY 0x8 x 0 0xE
  | .skipRegNeq x y => wordXY 0x9 x y 0x0
  | .setI nnn => wordA 0xA nnn
  | .jumpWithOffset nnn => wordA 0xB nnn
  | .setRandom x nn => wordXI 0xC x nn
  | .draw x y n => wordXY 0xD x y n
  | .skipKeyPressed x => wordXI 0xE x 0x9E
  | .skipKeyNotPressed x => wordXI 0xE x 0xA1
  | .getDelay x => wordXI 0xF x 0x07
  | .getKey x => wordXI 0xF x 0x0A
  | .setDelay x => wordXI 0xF x 0x15
  | .setSound x => wordXI 0xF x 0x18
  | .addI x => wordXI 0xF x 0x1E
  | .fontAddr x => wordXI 0xF x 0x29
  | .bcd x => wordXI 0xF x 0x33
  | .storeRegs x => wordXI 0xF x 0x55
  | .loadRegs x => wordXI 0xF x 0x65

/-! ## The opcode map as data (R85) -/

/-- One row of the opcode map: a word `w` is the form iff `w &&& mask = pattern` (R85). -/
structure OpcodeRow where
  tag : BitVec 6
  mask : Word
  pattern : Word
  deriving DecidableEq, Repr

/-- A word is of the row's form (R85). -/
abbrev OpcodeRow.Matches (r : OpcodeRow) (w : Word) : Prop := w &&& r.mask = r.pattern

/-- Families 0x0 to 0x7 (R85). -/
def opcodeRowsLow : List OpcodeRow := [
  ⟨0, 0xFFFF, 0x00E0⟩, ⟨1, 0xFFFF, 0x00EE⟩, ⟨2, 0xF000, 0x1000⟩, ⟨3, 0xF000, 0x2000⟩,
  ⟨4, 0xF000, 0x3000⟩, ⟨5, 0xF000, 0x4000⟩, ⟨6, 0xF00F, 0x5000⟩, ⟨7, 0xF000, 0x6000⟩,
  ⟨8, 0xF000, 0x7000⟩]

/-- Family 0x8 (R85). -/
def opcodeRowsArith : List OpcodeRow := [
  ⟨9, 0xF00F, 0x8000⟩, ⟨10, 0xF00F, 0x8001⟩, ⟨11, 0xF00F, 0x8002⟩, ⟨12, 0xF00F, 0x8003⟩,
  ⟨13, 0xF00F, 0x8004⟩, ⟨14, 0xF00F, 0x8005⟩, ⟨15, 0xF00F, 0x8006⟩, ⟨16, 0xF00F, 0x8007⟩,
  ⟨17, 0xF00F, 0x800E⟩]

/-- Families 0x9 to 0xE (R85). -/
def opcodeRowsHigh : List OpcodeRow := [
  ⟨18, 0xF00F, 0x9000⟩, ⟨19, 0xF000, 0xA000⟩, ⟨20, 0xF000, 0xB000⟩, ⟨21, 0xF000, 0xC000⟩,
  ⟨22, 0xF000, 0xD000⟩, ⟨23, 0xF0FF, 0xE09E⟩, ⟨24, 0xF0FF, 0xE0A1⟩]

/-- Family 0xF (R85). -/
def opcodeRowsMisc : List OpcodeRow := [
  ⟨25, 0xF0FF, 0xF007⟩, ⟨26, 0xF0FF, 0xF00A⟩, ⟨27, 0xF0FF, 0xF015⟩, ⟨28, 0xF0FF, 0xF018⟩,
  ⟨29, 0xF0FF, 0xF01E⟩, ⟨30, 0xF0FF, 0xF029⟩, ⟨31, 0xF0FF, 0xF033⟩, ⟨32, 0xF0FF, 0xF055⟩,
  ⟨33, 0xF0FF, 0xF065⟩]

/-- The opcode map, one row per form (R85). -/
def opcodeMap : List OpcodeRow :=
  opcodeRowsLow ++ opcodeRowsArith ++ opcodeRowsHigh ++ opcodeRowsMisc

end Sys2Proof
end

