-- ==== Sys2Proof/Machine/Params.lean ====
section
/-! DEFINITION. The parameters R5 marks "decided", each a named constant of the configuration, so that a
claim can name it. They stand under Machine/ because a test could show a value of them wrong. -/

namespace Sys2Proof.Config

/-- `STACK_DEPTH` (R5, R25, D10; log entry 8). -/
def stackDepth : Nat := 16

/-- `FONT_BASE` (R5, R52, D15; log entry 6). -/
def fontBase : Nat := 0x050

/-- The bytes of the glyphs 0 to 7 (R52, D15; log entry 6). -/
def fontLow : List Byte :=
  [0xF0, 0x90, 0x90, 0x90, 0xF0] ++ [0x20, 0x60, 0x20, 0x20, 0x70] ++
  [0xF0, 0x10, 0xF0, 0x80, 0xF0] ++ [0xF0, 0x10, 0xF0, 0x10, 0xF0] ++
  [0x90, 0x90, 0xF0, 0x10, 0x10] ++ [0xF0, 0x80, 0xF0, 0x10, 0xF0] ++
  [0xF0, 0x80, 0xF0, 0x90, 0xF0] ++ [0xF0, 0x10, 0x20, 0x40, 0x40]

/-- The bytes of the glyphs 8 to F (R52, D15; log entry 6). -/
def fontHigh : List Byte :=
  [0xF0, 0x90, 0xF0, 0x90, 0xF0] ++ [0xF0, 0x90, 0xF0, 0x10, 0xF0] ++
  [0xF0, 0x90, 0xF0, 0x90, 0x90] ++ [0xE0, 0x90, 0xE0, 0x90, 0xE0] ++
  [0xF0, 0x80, 0x80, 0x80, 0xF0] ++ [0xE0, 0x90, 0x90, 0x90, 0xE0] ++
  [0xF0, 0x80, 0xF0, 0x80, 0xF0] ++ [0xF0, 0x80, 0xF0, 0x80, 0x80]

/-- `FONT`: the 80 bytes of the font table, glyph by glyph (R5, R52, D15; log entry 6). -/
def font : List Byte := fontLow ++ fontHigh

end Sys2Proof.Config
end

