-- ==== Sys2Proof/Machine/State.lean ====
section
/-! DEFINITION. The machine's state as plain data: the ten elements of R20 and one counter of the model's
own, the reasons a step can stop, and the state after reset. -/

namespace Sys2Proof.Machine

/-- The five fatal run-time faults (R280, R281). None of them ends a step in the outcome `fault`: R288
describes what a fault does to the machine (nothing is committed, the latch is set, control goes
nowhere), so taking one is a NEXT state (`State.takeFault`; log entry 1). -/
inductive Fault where
  /-- The fetched word matches no form (R282). Raised by the decode phase of `step`. Safe. -/
  | decodeFailure
  /-- `return` with an empty stack (R283). Raised by `execRet`. Safe. -/
  | stackUnderflow
  /-- `call` with `STACK_DEPTH` entries held (R284, D10). Raised by `execCall`. Safe. -/
  | stackOverflow
  /-- An `I`-relative access that passes address 0xFFF (R285, D6). Raised by `execDraw`, `execBcd`,
  `execStoreRegs`, `execLoadRegs`. Safe. -/
  | memoryOutOfRange
  /-- A step that begins with `pc` above 0xFFE (R286, D7). Raised by the fetch phase of `step`. Safe. -/
  | fetchOutOfRange
  deriving DecidableEq, Repr

/-- Why a step has no meaning. -/
inductive Refusal where
  /-- The instruction of that mnemonic has no meaning in the model. Raised by no arm of `exec`: all 34
  forms have theirs. Safe. -/
  | notModelled (mnemonic : String)
  deriving DecidableEq, Repr

/-- What the fault latch records: the fault, the address of the instruction whose step faulted, and the
word fetched, 0 when the fetch itself faulted (R30, R281). -/
structure FaultRecord where
  code : Fault
  addr : Word
  word : Word
  deriving DecidableEq, Repr

/-- The 4096 bytes of memory (R50), as the list of those bytes that differ from what `load` of an empty
image leaves there, by rising address (log entry 10). `Memory.read` says what an unlisted byte holds. -/
abbrev Memory := List Host.Cell

/-- The frame buffer: 32 rows of 64 cells, `true` = lit; row 0 is the top row, column 0 the left one (R28,
R220, R221). -/
abbrev Grid := Vector (Vector Bool 64) 32

/-- The complete architectural state (R20). -/
structure State where
  /-- Memory (R50). -/
  mem : Memory
  /-- The general registers `V0` to `VF` (R21, R22). -/
  V : Vector Byte 16
  /-- The index register (R23). -/
  I : Word
  /-- The program counter (R24). -/
  pc : Word
  /-- The call stack, the top entry first (R25; log entry 13). -/
  stack : List Word
  /-- The delay timer (R26). -/
  DT : Byte
  /-- The sound timer (R27). -/
  ST : Byte
  /-- The frame buffer (R28). -/
  fb : Grid
  /-- The input latch (R29). -/
  key : Option Nibble
  /-- The fault latch (R30). -/
  fault : Option FaultRecord
  /-- The MODEL'S own field, not the spec's: the number of free draws of `rnd` made so far (R182, D14; log
  entry 3). -/
  draws : Nat
  deriving DecidableEq, Repr

/-- The machine right after reset: what `load` of an empty image leaves (R33, R310, R311; log entries 5 and
11). Memory lists nothing, so it holds the font table and zeros. -/
def State.reset : State where
  mem := []
  V := Vector.replicate 16 0
  I := 0
  pc := 0x200
  stack := []
  DT := 0
  ST := 0
  fb := Vector.replicate 32 (Vector.replicate 64 false)
  key := none
  fault := none
  draws := 0

/-- What a meaning answers. -/
abbrev Result := Host.Outcome State Fault Refusal

end Sys2Proof.Machine
end

