-- ==== Sys2Proof/Machine/Memory.lean ====
section
/-! DEFINITION. Memory as a list of cells in one canonical form: reading and writing one byte and a run of
bytes at ascending addresses (R53, R55), and the predicate that says the form holds. Nothing here checks
a range; that is `State.memRead` and `State.memWrite` in Ops.lean. -/

namespace Sys2Proof.Machine

/-- What a byte of memory holds right after `load` of an empty image: the font table at `FONT_BASE`, 0
elsewhere (R33, R51, R52, R311). It is what an unlisted address reads as. -/
def Memory.resetByte (a : Nat) : Byte :=
  if Config.fontBase ≤ a then Config.font.getD (a - Config.fontBase) 0 else 0

/-- The byte at an address. -/
def Memory.read (m : Memory) (a : Nat) : Byte := (m.lookup a).getD (Memory.resetByte a)

/-- A cell put before the first cell of a higher address. -/
def Memory.insert (a : Nat) (b : Byte) : Memory → Memory
  | [] => [(a, b)]
  | c :: rest => if a < c.1 then (a, b) :: c :: rest else c :: Memory.insert a b rest

/-- Memory without any cell for an address. -/
def Memory.erase (m : Memory) (a : Nat) : Memory := m.filter (fun c => c.1 != a)

/-- One byte written; a byte equal to what an unlisted address reads as is not listed. -/
def Memory.write (m : Memory) (a : Nat) (b : Byte) : Memory :=
  if b = Memory.resetByte a then m.erase a else Memory.insert a b (m.erase a)

/-- The bytes at `a`, `a + 1`, ..., `a + n - 1` (R53). -/
def Memory.readBytes (m : Memory) (a : Nat) : Nat → List Byte
  | 0 => []
  | n + 1 => m.read a :: Memory.readBytes m (a + 1) n

/-- Bytes written to `a`, `a + 1`, ... in ascending order (R53). -/
def Memory.writeBytes (m : Memory) (a : Nat) : List Byte → Memory
  | [] => m
  | b :: bs => Memory.writeBytes (m.write a b) (a + 1) bs

/-- Every address is at least `lo`, below 4096 and strictly rising, and no cell holds what an unlisted
address reads as. -/
def Memory.canonicalFrom : Nat → Memory → Bool
  | _, [] => true
  | lo, (a, b) :: rest =>
    decide (lo ≤ a) && decide (a < Config.memSize) && (b != Memory.resetByte a)
      && Memory.canonicalFrom (a + 1) rest

/-- The canonical form of memory. -/
def Memory.wf (m : Memory) : Bool := Memory.canonicalFrom 0 m

end Sys2Proof.Machine
end

