-- ==== Sys2Proof/Machine/Ops.lean ====
section
/-! DEFINITION. The named operations of the execute engine: registers, the range-checked memory accesses,
the call stack, the phases of a step, and TAKING A FAULT. -/

namespace Sys2Proof.Machine

/-! ## Registers (R7, R21) -/

/-- `V[r]`. -/
def State.reg (s : State) (r : Reg) : Byte := s.V[r.val]

/-- `V[r] <- v`. -/
def State.setReg (s : State) (r : Reg) (v : Byte) : State := { s with V := s.V.set r.val v }

/-- `I <- v`. -/
def State.setI (s : State) (v : Word) : State := { s with I := v }

/-- `pc <- v`. -/
def State.setPc (s : State) (v : Word) : State := { s with pc := v }

/-- `pc <- pc + 2` where the condition of a skip holds (R136, R155 to R158). -/
def State.skipIf (s : State) (c : Bool) : State := if c then s.setPc (s.pc + 2) else s

/-- `DT <- v`. -/
def State.setDT (s : State) (v : Byte) : State := { s with DT := v }

/-- `ST <- v`. -/
def State.setST (s : State) (v : Byte) : State := { s with ST := v }

/-- `fb` replaced. -/
def State.setFb (s : State) (g : Grid) : State := { s with fb := g }

/-- `mem` replaced. -/
def State.setMem (s : State) (m : Memory) : State := { s with mem := m }

/-! ## Memory accesses (R53) -/

/-- `MemRead(addr, n)`: the whole range is checked before any byte moves. -/
def State.memRead (s : State) (addr n : Nat) : Except Fault (List Byte) :=
  if 0 < n ∧ Config.memSize < addr + n then .error .memoryOutOfRange
  else .ok (s.mem.readBytes addr n)

/-- `MemWrite(addr, n, v)` with `n` the number of bytes given: the whole range is checked before any byte
moves. -/
def State.memWrite (s : State) (addr : Nat) (bs : List Byte) : Except Fault State :=
  if 0 < bs.length ∧ Config.memSize < addr + bs.length then .error .memoryOutOfRange
  else .ok (s.setMem (s.mem.writeBytes addr bs))

/-! ## The call stack (R25) -/

/-- `stack.push(v)`; a full stack overflows (R153, R284, D10). -/
def State.push (s : State) (v : Word) : Except Fault State :=
  if Config.stackDepth ≤ s.stack.length then .error .stackOverflow
  else .ok { s with stack := v :: s.stack }

/-- `stack.pop()`, the popped value and the state without it; an empty stack underflows (R151, R283). -/
def State.pop (s : State) : Except Fault (Word × State) :=
  match s.stack with
  | [] => .error .stackUnderflow
  | v :: rest => .ok (v, { s with stack := rest })

/-! ## The phases of a step (R131) -/

/-- `Fetch(pc)`: big-endian, any alignment, both bytes inside memory (R54, R56). -/
def State.fetch (s : State) : Except Fault Word :=
  if Config.memSize < s.pc.toNat + 2 then .error .fetchOutOfRange
  else .ok (wordOfBytes (s.mem.read s.pc.toNat) (s.mem.read (s.pc.toNat + 1)))

/-- One decrement of a timer, floored at 0 (R134). -/
def tickTimer (t : Byte) : Byte := if 0 < t.toNat then t - 1 else t

/-- The fetch-advance `pc <- pc + 2` (R132) and the tick of both timers (R134): the state an instruction's
execute phase starts from. -/
def State.enter (s : State) : State :=
  { s with pc := s.pc + 2, DT := tickTimer s.DT, ST := tickTimer s.ST }

/-! ## Taking a fault (R30, R133, R281, R288) -/

/-- TAKING A FAULT in the step that begins at `s`: nothing the step did is kept, and the latch records the
fault, the address of the instruction and the word. There is no return from a fault (R290): only `load`
clears the latch (`State.load`). -/
def State.takeFault (s : State) (f : Fault) (word : Word) : State :=
  { s with fault := some { code := f, addr := s.pc, word := word } }

/-- How the step of instruction `i` that began at `s` ends: all its writes are committed, or its fault is
taken (R133). -/
def State.commit (s : State) (i : Instr) : Except Fault State → Result
  | .ok t => .next t
  | .error f => .next (s.takeFault f (encode i))

/-- The fetch and decode phases: the instruction, or the fault and the word it records (R131, R281,
R289). -/
def State.fetchDecode (s : State) : Except (Fault × Word) Instr :=
  match s.fetch with
  | .error f => .error (f, 0)
  | .ok w =>
    match decode w with
    | none => .error (.decodeFailure, w)
    | some i => .ok i

/-- The word stored where the next fetch reads it, and the fault latch clear, since a halted machine
fetches nothing (R131; log entry 11). A `pc` no word can be fetched from leaves memory as it is. -/
def State.placeWord (s : State) (w : Word) : State :=
  if Config.memSize < s.pc.toNat + 2 then { s with fault := none }
  else { s with mem := s.mem.writeBytes s.pc.toNat (bytesOfWord w), fault := none }

end Sys2Proof.Machine
end

