-- ==== Sys2Proof/Machine/Flags.lean ====
section
/-! DEFINITION. The flag computations. `VF` is the only flag (R22). Each operation computes its result and
its flag exactly on natural numbers and narrows at the end (R183). -/

namespace Sys2Proof.Machine

/-- The 8-bit value 0 or 1 a flag writer puts into `VF` (R22). -/
def flagByte (c : Bool) : Byte := if c then 1 else 0

/-- `V[15] <- flag` (R22, R170). -/
def State.setFlag (s : State) (c : Bool) : State := s.setReg 15 (flagByte c)

/-- The result into `V[x]`, then the flag into `V[15]`: with `x = 15` the flag wins (R170, D13; log entry
12). -/
def State.setRegAndFlag (s : State) (x : Reg) (r : Byte × Bool) : State :=
  (s.setReg x r.1).setFlag r.2

/-- `a + b` and the carry (R177). -/
def addFlag (a b : Byte) : Byte × Bool :=
  (BitVec.ofNat 8 (a.toNat + b.toNat), decide (255 < a.toNat + b.toNat))

/-- `a - b` and the not-borrow (R178, R179). -/
def subFlag (a b : Byte) : Byte × Bool :=
  (BitVec.ofNat 8 (a.toNat + 256 - b.toNat), decide (b.toNat ≤ a.toNat))

/-- `a div 2` and the bit shifted out, bit 0 (R180). -/
def shiftRightFlag (a : Byte) : Byte × Bool := (BitVec.ofNat 8 (a.toNat / 2), a.getLsbD 0)

/-- `2 * a` and the bit shifted out, bit 7 (R181). -/
def shiftLeftFlag (a : Byte) : Byte × Bool := (BitVec.ofNat 8 (2 * a.toNat), a.getLsbD 7)

end Sys2Proof.Machine
end

