-- ==== Sys2Proof/Machine/Operands.lean ====
section
/-! DEFINITION. The operand forms of the instructions: an address zero-extended, a register zero-extended,
the low nibble of a register, the start coordinates of a sprite, the block of registers `V0` to `VX`, the
decimal digits of a byte, and the `I`-relative effective address. -/

namespace Sys2Proof.Machine

/-- `zext_16(NNN)` (R82). -/
def zextAddr (nnn : Addr) : Word := nnn.setWidth 16

/-- `zext_16` of a byte (R154, R202). -/
def zextByte (v : Byte) : Word := v.setWidth 16

/-- `zext_8` of a key code (R259). -/
def zextNibble (k : Nibble) : Byte := k.setWidth 8

/-- `V[x] & 0x0F`, the low nibble of a register as a 4-bit value (R203, R257, R258). -/
def State.lowNibble (s : State) (x : Reg) : Nibble := (s.reg x).extractLsb' 0 4

/-- The effective address `I + k`, a natural number: no reduction, no wrap (R59, R200). -/
def State.effAddr (s : State) (k : Nat) : Nat := s.I.toNat + k

/-- The values of `V0` to `VX` (R205). -/
def State.regBlock (s : State) (x : Reg) : List Byte := s.V.toList.take (x.val + 1)

/-- Registers `k`, `k + 1`, ... replaced by bytes (R206). -/
def loadBlock (v : Vector Byte 16) (k : Nat) : List Byte → Vector Byte 16
  | [] => v
  | b :: bs => loadBlock (v.setIfInBounds k b) (k + 1) bs

/-- `V[k] <- bk` for `k = 0, 1, ...` (R206). -/
def State.setRegBlock (s : State) (bs : List Byte) : State := { s with V := loadBlock s.V 0 bs }

/-- The three decimal digits of a byte, most significant first (R57, R204). -/
def bcdDigits (v : Byte) : List Byte :=
  [BitVec.ofNat 8 (v.toNat / 100), BitVec.ofNat 8 (v.toNat / 10 % 10), BitVec.ofNat 8 (v.toNat % 10)]

/-- `V[x] mod 64`, the start column of a sprite (R228). -/
def State.startColumn (s : State) (x : Reg) : Nat := (s.reg x).toNat % Config.fbWidth

/-- `V[y] mod 32`, the start row of a sprite (R228). -/
def State.startRow (s : State) (y : Reg) : Nat := (s.reg y).toNat % Config.fbHeight

/-- `FONT_BASE + 5 * (V[x] & 0x0F)`, the address of a glyph (R203). -/
def State.glyphAddr (s : State) (x : Reg) : Word :=
  BitVec.ofNat 16 (Config.fontBase + Config.glyphStride * (s.lowNibble x).toNat)

end Sys2Proof.Machine
end

