-- ==== Sys2Proof/Machine/Alu.lean ====
section
/-! DEFINITION. Register and arithmetic instructions (43_alu.md). The sources are read before anything is
written; a flag writer writes the result, then `VF` (R170). None of them changes `pc` beyond the
fetch-advance. -/

namespace Sys2Proof.Machine

/-- `set Vx,NN` (R171). -/
def execSet (x : Reg) (nn : Byte) (s : State) : Result := .next (s.enter.setReg x nn)

/-- `add-imm Vx,NN`: modulo 256, no flag (R172). -/
def execAddImm (x : Reg) (nn : Byte) (s : State) : Result :=
  .next (s.enter.setReg x (addFlag (s.enter.reg x) nn).1)

/-- `copy Vx,Vy` (R173). -/
def execCopy (x y : Reg) (s : State) : Result := .next (s.enter.setReg x (s.enter.reg y))

/-- `or Vx,Vy`: no flag (R174). -/
def execOr (x y : Reg) (s : State) : Result :=
  .next (s.enter.setReg x (s.enter.reg x ||| s.enter.reg y))

/-- `and Vx,Vy`: no flag (R175). -/
def execAnd (x y : Reg) (s : State) : Result :=
  .next (s.enter.setReg x (s.enter.reg x &&& s.enter.reg y))

/-- `xor Vx,Vy`: no flag (R176). -/
def execXor (x y : Reg) (s : State) : Result :=
  .next (s.enter.setReg x (s.enter.reg x ^^^ s.enter.reg y))

/-- `add Vx,Vy`: `VF` is the carry (R177). -/
def execAdd (x y : Reg) (s : State) : Result :=
  .next (s.enter.setRegAndFlag x (addFlag (s.enter.reg x) (s.enter.reg y)))

/-- `sub Vx,Vy`: `VF` is 1 iff there is no borrow (R178). -/
def execSub (x y : Reg) (s : State) : Result :=
  .next (s.enter.setRegAndFlag x (subFlag (s.enter.reg x) (s.enter.reg y)))

/-- `subn Vx,Vy`: `Vy - Vx` into `Vx` (R179). -/
def execSubn (x y : Reg) (s : State) : Result :=
  .next (s.enter.setRegAndFlag x (subFlag (s.enter.reg y) (s.enter.reg x)))

/-- `shift-right Vx`: `Vy` is neither read nor written (R180). -/
def execShiftRight (x : Reg) (s : State) : Result :=
  .next (s.enter.setRegAndFlag x (shiftRightFlag (s.enter.reg x)))

/-- `shift-left Vx` (R181). -/
def execShiftLeft (x : Reg) (s : State) : Result :=
  .next (s.enter.setRegAndFlag x (shiftLeftFlag (s.enter.reg x)))

/-- One draw of the input `rnd`: the byte, and the state in which the draw is used up (R182, D14; log entry
3). -/
def State.drawRandom (s : State) : Byte × State :=
  (Config.randomByte s.draws, { s with draws := s.draws + 1 })

/-- `set-random Vx,NN`: a free byte masked by `NN` (R182). -/
def execSetRandom (x : Reg) (nn : Byte) (s : State) : Result :=
  .next (s.enter.drawRandom.2.setReg x (s.enter.drawRandom.1 &&& nn))

end Sys2Proof.Machine
end

