-- ==== Sys2Proof/Machine/Control.lean ====
section
/-! DEFINITION. Control transfer (42_control_flow.md): return, jump, call, jump-with-offset and the four
value skips. A meaning is applied to the state the step begins at; the rule's pseudocode runs on
`s.enter`, where `pc` already holds `a + 2` and the timers have ticked (R150). -/

namespace Sys2Proof.Machine

/-- `return`: pop the stack into `pc`, or StackUnderflow (R151). -/
def execRet (s : State) : Result :=
  s.commit .ret <|
    match s.enter.pop with
    | .error f => .error f
    | .ok (v, t) => .ok (t.setPc v)

/-- `jump NNN` (R152). -/
def execJump (nnn : Addr) (s : State) : Result := .next (s.enter.setPc (zextAddr nnn))

/-- `call NNN`: push the address after the call and jump, or StackOverflow (R153). -/
def execCall (nnn : Addr) (s : State) : Result :=
  s.commit (.call nnn) <|
    match s.enter.push s.enter.pc with
    | .error f => .error f
    | .ok t => .ok (t.setPc (zextAddr nnn))

/-- `jump-with-offset NNN`: the register is always `V0`, the sum is not reduced to 12 bits (R154, D12). -/
def execJumpWithOffset (nnn : Addr) (s : State) : Result :=
  .next (s.enter.setPc (zextAddr nnn + zextByte (s.enter.reg 0)))

/-- `skip-eq Vx,NN` (R155). -/
def execSkipEq (x : Reg) (nn : Byte) (s : State) : Result :=
  .next (s.enter.skipIf (s.enter.reg x == nn))

/-- `skip-neq Vx,NN` (R156). -/
def execSkipNeq (x : Reg) (nn : Byte) (s : State) : Result :=
  .next (s.enter.skipIf (s.enter.reg x != nn))

/-- `skip-reg-eq Vx,Vy` (R157). -/
def execSkipRegEq (x y : Reg) (s : State) : Result :=
  .next (s.enter.skipIf (s.enter.reg x == s.enter.reg y))

/-- `skip-reg-neq Vx,Vy` (R158). -/
def execSkipRegNeq (x y : Reg) (s : State) : Result :=
  .next (s.enter.skipIf (s.enter.reg x != s.enter.reg y))

end Sys2Proof.Machine
end

