-- ==== Sys2Proof/Machine/FrameBuffer.lean ====
section
/-! DEFINITION. The block `frame_buffer_and_collision_unit`: the grid, its clear and its XOR blit with the
collision bit (R220 to R225, R230). -/

namespace Sys2Proof.Machine

/-- The grid with every cell unlit (R222). -/
def Grid.blank : Grid := Vector.replicate 32 (Vector.replicate 64 false)

/-- `fb[y][x]`, the cell at column `x`, row `y` (R221); `false` outside the grid. -/
def Grid.cell (g : Grid) (x y : Nat) : Bool :=
  if h : y < 32 ∧ x < 64 then (g[y]'h.1)[x]'h.2 else false

/-- The cell at linear index `k = y * 64 + x` of the row-major grid (R28, R221). -/
def Grid.linear (g : Grid) (k : Nat) : Bool := g.cell (k % 64) (k / 64)

/-- The grid with one cell turned over: `fb[y][x] <- fb[y][x] ^ 1` (R223). -/
def Grid.flip (g : Grid) (x y : Nat) : Grid :=
  if h : y < 32 ∧ x < 64 then
    g.set y ((g[y]'h.1).set x (!((g[y]'h.1)[x]'h.2)) h.2) h.1
  else g

/-- `FbClear` (R222). -/
def fbClear (_ : Grid) : Grid := Grid.blank

/-- One column of one sprite row: a set bit inside the grid turns its cell over, and is a collision if the
cell was lit; bit 7 is the leftmost column (R223, D17); a cell outside the grid is clipped (R225). -/
def blitCell (x0 yy : Nat) (row : Byte) (acc : Grid × Bool) (c : Nat) : Grid × Bool :=
  if yy < 32 ∧ x0 + c < 64 ∧ row.getLsbD (7 - c) = true then
    (acc.1.flip (x0 + c) yy, acc.2 || acc.1.cell (x0 + c) yy)
  else acc

/-- The eight columns of one sprite row (R223). -/
def blitRow (x0 yy : Nat) (row : Byte) (acc : Grid × Bool) : Grid × Bool :=
  (List.range 8).foldl (blitCell x0 yy row) acc

/-- The rows of a sprite from row `yy` of the grid downward (R223). -/
def blitRows (x0 : Nat) : Nat → List Byte → Grid × Bool → Grid × Bool
  | _, [], acc => acc
  | yy, row :: rows, acc => blitRows x0 (yy + 1) rows (blitRow x0 yy row acc)

/-- `FbBlit(x0, y0, rows)`, for `x0` below 64 and `y0` below 32: the new grid and the collision bit (R223,
R224). -/
def fbBlit (x0 y0 : Nat) (rows : List Byte) (g : Grid) : Grid × Bool :=
  blitRows x0 y0 rows (g, false)

end Sys2Proof.Machine
end

