-- ==== Sys2Proof/Machine/Display.lean ====
section
/-! DEFINITION. The two display instructions (45_display.md). -/

namespace Sys2Proof.Machine

/-- `clear-screen`: `FbClear`, no flag (R227). -/
def execClearScreen (s : State) : Result := .next (s.enter.setFb (fbClear s.enter.fb))

/-- A sprite blitted with its start corner at the coordinates in `Vx` and `Vy`, then the collision into
`VF` (R228). -/
def State.blit (s : State) (x y : Reg) (rows : List Byte) : State :=
  (s.setFb (fbBlit (s.startColumn x) (s.startRow y) rows s.fb).1).setFlag
    (fbBlit (s.startColumn x) (s.startRow y) rows s.fb).2

/-- `draw Vx,Vy,N`: all `N` bytes are read, also of rows that are clipped; `N = 0` reads none, draws
nothing and clears `VF` (R228, R231, D18). -/
def execDraw (x y : Reg) (n : Nibble) (s : State) : Result :=
  s.commit (.draw x y n) <|
    match s.enter.memRead (s.enter.effAddr 0) n.toNat with
    | .error f => .error f
    | .ok rows => .ok (s.enter.blit x y rows)

end Sys2Proof.Machine
end

