-- ==== Sys2Proof/Machine/IndexMem.lean ====
section
/-! DEFINITION. Index register and memory instructions (44_index_memory.md). No one of them changes `I` as a
side effect, and a fault is raised before anything is written (R200). -/

namespace Sys2Proof.Machine

/-- `set-I NNN` (R201). -/
def execSetI (nnn : Addr) (s : State) : Result := .next (s.enter.setI (zextAddr nnn))

/-- `add-I Vx`: modulo 65 536, no flag (R202, D11). -/
def execAddI (x : Reg) (s : State) : Result :=
  .next (s.enter.setI (s.enter.I + zextByte (s.enter.reg x)))

/-- `font-addr Vx`: the address of a glyph; memory is not accessed (R203). -/
def execFontAddr (x : Reg) (s : State) : Result := .next (s.enter.setI (s.enter.glyphAddr x))

/-- `bcd Vx`: the three decimal digits to `I`, `I + 1`, `I + 2` (R204). -/
def execBcd (x : Reg) (s : State) : Result :=
  s.commit (.bcd x) (s.enter.memWrite (s.enter.effAddr 0) (bcdDigits (s.enter.reg x)))

/-- `store-regs Vx`: `V0` to `VX` to memory from `I` (R205). -/
def execStoreRegs (x : Reg) (s : State) : Result :=
  s.commit (.storeRegs x) (s.enter.memWrite (s.enter.effAddr 0) (s.enter.regBlock x))

/-- `load-regs Vx`: `V0` to `VX` from memory at `I` (R206). -/
def execLoadRegs (x : Reg) (s : State) : Result :=
  s.commit (.loadRegs x) <|
    match s.enter.memRead (s.enter.effAddr 0) (x.val + 1) with
    | .error f => .error f
    | .ok bs => .ok (s.enter.setRegBlock bs)

end Sys2Proof.Machine
end

