-- ==== Sys2Proof/Machine/TimerKey.lean ====
section
/-! DEFINITION. Timer and key instructions (46_timer_input.md). The timers an instruction sees have already
ticked in its own step; no instruction changes the latch. -/

namespace Sys2Proof.Machine

/-- `get-delay Vx` (R251). -/
def execGetDelay (x : Reg) (s : State) : Result := .next (s.enter.setReg x s.enter.DT)

/-- `set-delay Vx` (R252). -/
def execSetDelay (x : Reg) (s : State) : Result := .next (s.enter.setDT (s.enter.reg x))

/-- `set-sound Vx` (R253). -/
def execSetSound (x : Reg) (s : State) : Result := .next (s.enter.setST (s.enter.reg x))

/-- `skip-key-pressed Vx`: the low nibble of `Vx` against the latch (R257). -/
def execSkipKeyPressed (x : Reg) (s : State) : Result :=
  .next (s.enter.skipIf (s.enter.key == some (s.enter.lowNibble x)))

/-- `skip-key-not-pressed Vx`: an empty latch differs from every key (R258, D26). -/
def execSkipKeyNotPressed (x : Reg) (s : State) : Result :=
  .next (s.enter.skipIf (s.enter.key != some (s.enter.lowNibble x)))

/-- `get-key Vx`: with an empty latch `pc` is rewound by 2, else the code goes into `Vx`; the latch is not
cleared (R259, C6, D20). -/
def execGetKey (x : Reg) (s : State) : Result :=
  match s.enter.key with
  | none => .next (s.enter.setPc (s.enter.pc - 2))
  | some k => .next (s.enter.setReg x (zextNibble k))

end Sys2Proof.Machine
end

