-- ==== Sys2Proof/Machine/Step.lean ====
section
/-! DEFINITION. One step of the core, and where the next instruction is fetched from. -/

namespace Sys2Proof.Machine

/-- One step (R131): a halted machine changes nothing; otherwise fetch and decode, and a fault of these
phases is taken; otherwise the instruction is executed. A step always answers a next state (R324). -/
def step (s : State) : Host.Outcome State Fault Refusal :=
  match s.fault with
  | some _ => .next s
  | none =>
    match s.fetchDecode with
    | .error (f, word) => .next (s.takeFault f word)
    | .ok i => exec i s

/-- `s` with an instruction of `nbits` bits `w`, numbered as the opcode table numbers them, stored where
the next step fetches (log entry 11). -/
def State.withFetchWord (s : State) (nbits w : Nat) : State := s.placeWord (tableWord nbits w)

end Sys2Proof.Machine
end

