-- ==== Sys2Proof/WellFormed.lean ====
section
/-! DEFINITION. The admission checks: the operands of an instruction (R112), the program image of `load`
(R312) and the key code of a host event (R255, U3).

The operand types of `Instr` already hold each operand to its range, so `Instr.wellFormed` refuses no
term: on this hardware there is no ill-formed instruction value, only words that decode to none (R88,
R115). The two checks on what the host hands over do refuse, and Tests/Slice0.lean shows a refused
term of each. -/

namespace Sys2Proof

/-- Every operand lies in the range R112 gives it. -/
def Instr.wellFormed : Instr → Bool
  | .clearScreen | .ret => true
  | .jump nnn | .call nnn | .setI nnn | .jumpWithOffset nnn => nnn.toNat ≤ 0xFFF
  | .skipEq x nn | .skipNeq x nn | .set x nn | .addImm x nn | .setRandom x nn =>
    x.val ≤ 15 && nn.toNat ≤ 255
  | .skipRegEq x y | .skipRegNeq x y | .copy x y | .or x y | .and x y | .xor x y | .add x y
  | .sub x y | .subn x y => x.val ≤ 15 && y.val ≤ 15
  | .draw x y n => x.val ≤ 15 && y.val ≤ 15 && n.toNat ≤ 15
  | .shiftRight x | .shiftLeft x | .skipKeyPressed x | .skipKeyNotPressed x | .getDelay x
  | .getKey x | .setDelay x | .setSound x | .addI x | .fontAddr x | .bcd x | .storeRegs x
  | .loadRegs x => x.val ≤ 15

/-- The program image fits in the program region (R311, R312). -/
def imageFits (image : List Byte) : Bool := image.length ≤ Config.progMax

/-- The 4-bit key code of a number the host holds; a code outside 0x0 to 0xF cannot be presented to the
core (R255, U3). -/
def keyCode (k : Nat) : Option Nibble := if k < 16 then some (BitVec.ofNat 4 k) else none

end Sys2Proof
end

