-- ==== Sys2Proof/Machine/HostOps.lean ====
section
/-! DEFINITION. What the host does to the machine between steps (R9, R130, R314): `load`, the key events
and the three accessors. -/

namespace Sys2Proof.Machine

/-- A load-time failure (R287, R312). -/
inductive LoadError where
  /-- The image does not fit in the program region; nothing is created or changed. Safe. -/
  | imageTooLong
  deriving DecidableEq, Repr

/-- `load(image)`: the font, the image from 0x200 and zeros in memory, every other element at its reset
value, or LoadError (R310 to R312, D22). `draws` numbers the next free draw: a load takes back no draw
(log entry 4). -/
def State.load (image : List Byte) (draws : Nat) : Except LoadError State :=
  if imageFits image then
    .ok { State.reset with
          mem := Memory.writeBytes State.reset.mem Config.progBase image, draws := draws }
  else .error .imageTooLong

/-- The machine after `load` is called on it: a failed load leaves it as it was (R312, D22). -/
def State.reload (s : State) (image : List Byte) : State :=
  match State.load image s.draws with
  | .ok t => t
  | .error _ => s

/-- `load_error` (R130, R312). -/
def loadError (image : List Byte) : Bool := !imageFits image

/-- `key_press(code)`: a press overwrites the latch (R255). -/
def State.keyPress (s : State) (code : Nibble) : State := { s with key := some code }

/-- `key_release(code)`: any release empties the latch, whatever the code (R256, D19). -/
def State.keyRelease (s : State) (_ : Nibble) : State := { s with key := none }

/-- `fb_read`: the read-only view of the grid (R226). -/
def State.fbRead (s : State) : Grid := s.fb

/-- `sound_active`: 1 iff `ST > 0` (R254). -/
def State.soundActive (s : State) : Bool := decide (0 < s.ST.toNat)

/-- The 3-bit code of a fault (R281, D9). -/
def Fault.code : Fault → BitVec 3
  | .decodeFailure => 1
  | .stackUnderflow => 2
  | .stackOverflow => 3
  | .memoryOutOfRange => 4
  | .fetchOutOfRange => 5

/-- The `fault` port: `none`, or the code, the address and the word (R30, R130, R314). -/
def State.faultPort (s : State) : Option (BitVec 3 × Word × Word) :=
  s.fault.map fun r => (r.code.code, r.addr, r.word)

/-- The 3-bit `code` of the `fault` port: 0 is no fault (R281). -/
def State.faultCode (s : State) : BitVec 3 :=
  match s.fault with
  | none => 0
  | some r => r.code.code

/-- One move of the host that changes the machine (R9, R314). -/
inductive HostMove where
  | load (image : List Byte)
  | keyPress (code : Nibble)
  | keyRelease (code : Nibble)
  deriving DecidableEq, Repr

/-- The machine after a move of the host. -/
def State.hostMove (s : State) : HostMove → State
  | .load image => s.reload image
  | .keyPress code => s.keyPress code
  | .keyRelease code => s.keyRelease code

end Sys2Proof.Machine
end

