-- ==== Sys2Proof/Safety.lean ====
section
/-! DEFINITION. The terms claims are stated in: a machine that runs (D30), the states a run can reach (R9),
the invariants of the machine, the access matrix (R34) and the cells a sprite covers (R223). -/

namespace Sys2Proof.Machine

/-! ## Runs -/

/-- The machine has not faulted; a faulted machine is never the final state of a successful run (R137, D30).
This is what a safe run keeps. -/
abbrev State.Running (s : State) : Prop := s.fault = none

/-- The states an execution can reach: a successful `load` to begin with, then any sequence of steps and
moves of the host (R9, R310). The first load may number its draws from anywhere. -/
inductive Reachable : State → Prop where
  | loaded {image : List Byte} {draws : Nat} {s : State} (h : State.load image draws = .ok s) :
      Reachable s
  | step {s t : State} (hs : Reachable s) (h : Machine.step s = .next t) : Reachable t
  | host {s : State} (hs : Reachable s) (m : HostMove) : Reachable (s.hostMove m)

/-- The word in memory at `pc`: the byte at the lower address is the more significant one (R54). -/
def State.wordAtPc (s : State) : Word :=
  BitVec.ofNat 16 ((s.mem.read s.pc.toNat).toNat * 256 + (s.mem.read (s.pc.toNat + 1)).toNat)

/-! ## Invariants -/

/-- Memory is in its canonical form and inside the address space (R50). -/
abbrev State.MemoryCanonical (s : State) : Prop := s.mem.wf = true

/-- `pc` is at most 0x10FE (R24), at most `STACK_DEPTH` return addresses are held (R25), and each is at most
0x1000 (R151, R153). -/
abbrev State.ControlBounded (s : State) : Prop :=
  s.pc.toNat ≤ 0x10FE ∧ s.stack.length ≤ Config.stackDepth ∧ ∀ v ∈ s.stack, v.toNat ≤ 0x1000

/-- How many bytes from `I` on an instruction accesses (R66). -/
def accessLength : Instr → Nat
  | .draw _ _ n => n.toNat
  | .bcd _ => 3
  | .storeRegs x | .loadRegs x => x.val + 1
  | _ => 0

/-- The fault latch, where it is set, describes the state it stands in: nothing was committed by the faulting
step, so `addr` is `pc`, the word is the one in memory at `pc` (0 when the fetch faulted), and the cause of
the fault still holds (R281 to R286, R288). -/
def State.LatchTruthful (s : State) : Prop :=
  ∀ r, s.fault = some r →
    r.addr = s.pc ∧
    match r.code with
    | .fetchOutOfRange => 0xFFE < s.pc.toNat ∧ r.word = 0
    | .decodeFailure => s.pc.toNat ≤ 0xFFE ∧ r.word = s.wordAtPc ∧ decode r.word = none
    | .stackUnderflow =>
      s.pc.toNat ≤ 0xFFE ∧ r.word = s.wordAtPc ∧ decode r.word = some .ret ∧ s.stack = []
    | .stackOverflow =>
      s.pc.toNat ≤ 0xFFE ∧ r.word = s.wordAtPc ∧
        ∃ nnn, decode r.word = some (.call nnn) ∧ Config.stackDepth ≤ s.stack.length
    | .memoryOutOfRange =>
      s.pc.toNat ≤ 0xFFE ∧ r.word = s.wordAtPc ∧
        ∃ i, decode r.word = some i ∧ 0 < accessLength i ∧ 4096 < s.I.toNat + accessLength i

/-! ## The access matrix (R34) -/

/-- The general registers an instruction may write: the column `V` and the column `VF as flag` (R34). -/
def mayWriteReg : Instr → Reg → Bool
  | .set x _, r | .addImm x _, r | .copy x _, r | .or x _, r | .and x _, r | .xor x _, r
  | .setRandom x _, r | .getDelay x, r | .getKey x, r => r == x
  | .add x _, r | .sub x _, r | .subn x _, r | .shiftRight x, r | .shiftLeft x, r => r == x || r == 15
  | .draw _ _ _, r => r == 15
  | .loadRegs x, r => decide (r ≤ x)
  | _, _ => false

/-- The instructions that write `I` (R34). -/
def mayWriteI : Instr → Bool
  | .setI _ | .addI _ | .fontAddr _ => true
  | _ => false

/-- The instructions that write the stack (R34). -/
def mayWriteStack : Instr → Bool
  | .ret | .call _ => true
  | _ => false

/-- The instructions that write the frame buffer (R34). -/
def mayWriteFb : Instr → Bool
  | .clearScreen | .draw _ _ _ => true
  | _ => false

/-- The instructions that change `pc` beyond the fetch-advance (R34, R136). -/
def mayWritePc : Instr → Bool
  | .ret | .jump _ | .call _ | .jumpWithOffset _ | .skipEq _ _ | .skipNeq _ _ | .skipRegEq _ _
  | .skipRegNeq _ _ | .skipKeyPressed _ | .skipKeyNotPressed _ | .getKey _ => true
  | _ => false

/-- The number of bytes an instruction stores, from the effective address `I + 0` upward (R66). -/
def storeLength : Instr → Nat
  | .bcd _ => 3
  | .storeRegs x => x.val + 1
  | _ => 0

/-- THE FRAME of an instruction that began at `s` and ended, without a fault, in `t`: every element R34 does
not mark in its row is as it was, the timers have ticked once (R134), and `pc` has been advanced by 2
(R132). The bytes that may change are those from the effective address the meaning computes. -/
structure FrameKept (i : Instr) (s t : State) : Prop where
  regs : ∀ k, mayWriteReg i k = false → t.reg k = s.reg k
  index : mayWriteI i = false → t.I = s.I
  pc : mayWritePc i = false → t.pc = s.pc + 2
  stack : mayWriteStack i = false → t.stack = s.stack
  memory : ∀ a, ¬ (s.enter.effAddr 0 ≤ a ∧ a < s.enter.effAddr 0 + storeLength i) →
    t.mem.read a = s.mem.read a
  delay : (∀ x, i ≠ .setDelay x) → t.DT.toNat = s.DT.toNat - 1
  sound : (∀ x, i ≠ .setSound x) → t.ST.toNat = s.ST.toNat - 1
  cells : mayWriteFb i = false → t.fb = s.fb
  key : t.key = s.key
  fault : t.fault = s.fault
  draws : (∀ x nn, i ≠ .setRandom x nn) → t.draws = s.draws

/-! ## Sprites (R223, R225) -/

/-- The sprite with rows `rows` and start corner `(x0, y0)` has a set bit on the cell at column `x`, row `y`:
bit 7 of row `r` lies on column `x0`, bit 0 on column `x0 + 7` (R223). -/
def spriteCovers (x0 y0 : Nat) (rows : List Byte) (x y : Nat) : Bool :=
  decide (x0 ≤ x ∧ x < x0 + 8 ∧ y0 ≤ y ∧ y < y0 + rows.length)
    && (rows.getD (y - y0) 0).getLsbD (7 - (x - x0))

end Sys2Proof.Machine
end

