-- ==== Sys2Proof/Certificates/Slice0/Obligations.lean ====
section
/-! DEFINITION. The statements about the machine. `FrameKept i s t` (Safety.lean) is the frame of an
instruction: it stands in every statement of a result, so each says what changes and that nothing else
does. Every such statement concludes that `exec` ANSWERS A NEXT STATE, under hypotheses on the state and
the operands alone. -/

open Sys2Proof Sys2Proof.Machine

/-! ## Encoding and decoding -/

/-- Decoding the word of any instruction gives the instruction back (R92, marked `[derived]` there; the
patterns are D3). No bit of an encoding is dropped. -/
def Obligations.DecodeOfEncodeIsTheInstruction : Prop :=
  ∀ i : Instr, decode (encode i) = some i

/-- Encoding what a word decodes to gives the word back, but for a shift, whose ignored `Y` field comes back
as 0 (R92, R87; derived there, D4). -/
def Obligations.EncodeOfDecodeIsTheWord : Prop :=
  ∀ (w : Word) (i : Instr), decode w = some i →
    encode i = if (∃ x, i = .shiftRight x ∨ i = .shiftLeft x) then w &&& 0xFF0F else w

/-- The decoding algorithm of R113 and the opcode map of R85 agree on every word: a word decodes to a form
exactly if it matches the row of that form's tag; no word matches two rows (D3, D4). -/
def Obligations.DecoderIsTheOpcodeMap : Prop :=
  ∀ w : Word,
    (∀ i, decode w = some i → ∃ r ∈ opcodeMap, r.tag = tagCode i ∧ r.Matches w) ∧
    (∀ r ∈ opcodeMap, r.Matches w → ∃ i, decode w = some i ∧ tagCode i = r.tag)

/-- The words that decode to nothing are exactly those of the table of R88 (D4). -/
def Obligations.IllegalWordsAreThoseListed : Prop :=
  ∀ w : Word, decode w = none ↔
    (w.toNat / 4096 = 0x0 ∧ w.toNat ≠ 0x00E0 ∧ w.toNat ≠ 0x00EE) ∨
    (w.toNat / 4096 = 0x5 ∧ w.toNat % 16 ≠ 0) ∨
    (w.toNat / 4096 = 0x8 ∧ w.toNat % 16 ∈ [0x8, 0x9, 0xA, 0xB, 0xC, 0xD, 0xF]) ∨
    (w.toNat / 4096 = 0x9 ∧ w.toNat % 16 ≠ 0) ∨
    (w.toNat / 4096 = 0xE ∧ w.toNat % 256 ∉ [0x9E, 0xA1]) ∨
    (w.toNat / 4096 = 0xF ∧
      w.toNat % 256 ∉ [0x07, 0x0A, 0x15, 0x18, 0x1E, 0x29, 0x33, 0x55, 0x65])

/-- Words written out from the opcode map, at least one accepted word of each of the sixteen families 0x0 to
0xF, and words that are refused (R93, R118 and the vectors of 95_test_vectors.md; the patterns are D3;
sanity). -/
def Obligations.WorkedDecodings : Prop :=
  decode 0x00E0 = some .clearScreen ∧ decode 0x10E0 = some (.jump 0x0E0) ∧
  decode 0x2204 = some (.call 0x204) ∧ decode 0x3105 = some (.skipEq 1 5) ∧
  decode 0x4105 = some (.skipNeq 1 5) ∧ decode 0x5AB0 = some (.skipRegEq 10 11) ∧
  decode 0x6005 = some (.set 0 5) ∧ decode 0x7003 = some (.addImm 0 3) ∧
  decode 0x8AB4 = some (.add 10 11) ∧ decode 0x83F6 = some (.shiftRight 3) ∧
  decode 0x9AB0 = some (.skipRegNeq 10 11) ∧ decode 0xA300 = some (.setI 0x300) ∧
  decode 0xBFFF = some (.jumpWithOffset 0xFFF) ∧ decode 0xC10F = some (.setRandom 1 0x0F) ∧
  decode 0xD125 = some (.draw 1 2 5) ∧ decode 0xE39E = some (.skipKeyPressed 3) ∧
  decode 0xF265 = some (.loadRegs 2) ∧
  decode 0x5121 = none ∧ decode 0x0000 = none ∧ decode 0x00E1 = none ∧ decode 0x01E0 = none ∧
  decode 0xE09F = none ∧ decode 0xF000 = none ∧ decode 0x8008 = none

/-- The operand ports of the decoder carry the raw slices of the word whatever it decodes to, `valid` says
whether it decodes, and `tag` is the form's code where it does (R111, R112, D1, D5). -/
def Obligations.DecoderPortsCarryTheSlices : Prop :=
  ∀ w : Word,
    (decoderPorts w).x.toNat = w.toNat / 256 % 16 ∧ (decoderPorts w).y.toNat = w.toNat / 16 % 16 ∧
    (decoderPorts w).n.toNat = w.toNat % 16 ∧ (decoderPorts w).nn.toNat = w.toNat % 256 ∧
    (decoderPorts w).nnn.toNat = w.toNat % 4096 ∧
    ((decoderPorts w).valid = true ↔ ∃ i, decode w = some i) ∧
    (∀ i, decode w = some i → (decoderPorts w).tag = tagCode i)

/-! ## The step -/

/-- A running machine whose `pc` has a whole word inside memory and whose word decodes to `i` steps exactly as
`exec i`: nothing stands around it, since a meaning makes the fetch-advance and the tick itself (R131,
R54; the byte order is D2). -/
def Obligations.StepRunsTheDecodedInstruction : Prop :=
  ∀ (s : State) (i : Instr), s.fault = none → s.pc.toNat ≤ 0xFFE → decode s.wordAtPc = some i →
    step s = exec i s

/-- A running machine whose `pc` is above 0xFFE takes FetchOutOfRange, and one that fetches a word of no form
takes DecodeFailure: only the latch changes, and the fault port then shows the code (5 or 1), the `pc` and the
word, 0 where the fetch itself faulted (R281, R282, R286; D7, D8, D9). -/
def Obligations.FetchAndDecodeFaults : Prop :=
  ∀ s : State, s.fault = none →
    (0xFFE < s.pc.toNat →
      ∃ t, step s = .next t ∧ t = { s with fault := some ⟨.fetchOutOfRange, s.pc, 0⟩ } ∧
        t.faultPort = some (5, s.pc, 0)) ∧
    (s.pc.toNat ≤ 0xFFE → decode s.wordAtPc = none →
      ∃ t, step s = .next t ∧ t = { s with fault := some ⟨.decodeFailure, s.pc, s.wordAtPc⟩ } ∧
        t.faultPort = some (1, s.pc, s.wordAtPc))

/-- A halted machine takes a step that changes nothing (R30, R131, D8). -/
def Obligations.HaltedMachineStaysAsItIs : Prop :=
  ∀ s : State, s.fault ≠ none → step s = .next s

/-- A step of any machine answers a next state: a halted machine does nothing, a running one executes the
instruction at its `pc` or records a fault and changes nothing else (R324; the latch and the no-op of a halted
machine are D8). That the execution of any instruction answers a next state in every state, a halted one
included, and that a fault is a next state, are the model's choices (log entries 1 and 14). -/
def Obligations.StepAlwaysReturns : Prop :=
  (∀ s : State, ∃ t, step s = .next t ∧
    ((s.fault ≠ none ∧ t = s) ∨
      (s.fault = none ∧ ∃ i, decode s.wordAtPc = some i ∧ exec i s = .next t) ∨
      (s.fault = none ∧ ∃ r : FaultRecord, t = { s with fault := some r }))) ∧
  (∀ (i : Instr) (s : State), ∃ t, exec i s = .next t)

/-- A step of a running machine either ends in a running machine or changes nothing but the latch, which then
records the address the step began at (R133, R288, D8; a fault as a next state is log entry 1). -/
def Obligations.FaultingStepCommitsNothing : Prop :=
  ∀ s t : State, s.fault = none → step s = .next t →
    t.fault = none ∨ ∃ r : FaultRecord, r.addr = s.pc ∧ t = { s with fault := some r }

/-- Both timers drop by exactly 1, floored at 0, in every step of a running machine that completes, whatever
the instruction, unless it writes the timer itself; in a step that faults and in a step of a halted machine
they do not change (R134). -/
def Obligations.TimersTickOncePerCompletedStep : Prop :=
  ∀ s t : State, step s = .next t →
    (s.fault = none → t.fault = none →
      ((∀ x, decode s.wordAtPc ≠ some (.setDelay x)) → t.DT.toNat = s.DT.toNat - 1) ∧
      ((∀ x, decode s.wordAtPc ≠ some (.setSound x)) → t.ST.toNat = s.ST.toNat - 1)) ∧
    (s.fault ≠ none ∨ t.fault ≠ none → t.DT = s.DT ∧ t.ST = s.ST)

/-! ## Control transfer -/

/-- `return` with a return address on the stack takes it off and into `pc` (R151). -/
def Obligations.ReturnPopsIntoPc : Prop :=
  ∀ (s : State) (v : Word) (rest : List Word), s.stack = v :: rest →
    ∃ t, exec .ret s = .next t ∧ FrameKept .ret s t ∧ t.pc = v ∧ t.stack = rest

/-- `jump NNN` (R152). -/
def Obligations.JumpSetsPc : Prop :=
  ∀ (s : State) (nnn : Addr),
    ∃ t, exec (.jump nnn) s = .next t ∧ FrameKept (.jump nnn) s t ∧ t.pc.toNat = nnn.toNat

/-- `call NNN` with fewer than 16 return addresses held pushes the address after the call and jumps (R153; the
bound of 16 is D10). -/
def Obligations.CallPushesTheAddressAfterIt : Prop :=
  ∀ (s : State) (nnn : Addr), s.stack.length < 16 →
    ∃ t, exec (.call nnn) s = .next t ∧ FrameKept (.call nnn) s t ∧ t.pc.toNat = nnn.toNat ∧
      t.stack = (s.pc + 2) :: s.stack

/-- `return` with an empty stack takes StackUnderflow, and `call` with 16 return addresses held StackOverflow:
only the latch changes, and the fault port then shows the code (2 or 3), the address and the word `00EE` or
`2NNN` (R281, R283, R284; D8, D9, D10). That the word is the instruction's encoding is the model's deduction
(log entry 2). -/
def Obligations.StackFaults : Prop :=
  ∀ (s : State) (nnn : Addr),
    (s.stack = [] →
      ∃ t, exec .ret s = .next t ∧ t = { s with fault := some ⟨.stackUnderflow, s.pc, 0x00EE⟩ } ∧
        t.faultPort = some (2, s.pc, 0x00EE)) ∧
    (s.stack.length = 16 →
      ∃ t, exec (.call nnn) s = .next t ∧
        t = { s with fault := some ⟨.stackOverflow, s.pc, BitVec.ofNat 16 (0x2000 + nnn.toNat)⟩ } ∧
        t.faultPort = some (3, s.pc, BitVec.ofNat 16 (0x2000 + nnn.toNat)))

/-- `jump-with-offset NNN`: `pc` is the sum of `NNN` and `V0` as a natural number, not reduced to 12 bits
(R154, D12). -/
def Obligations.JumpWithOffsetAddsVZero : Prop :=
  ∀ (s : State) (nnn : Addr),
    ∃ t, exec (.jumpWithOffset nnn) s = .next t ∧ FrameKept (.jumpWithOffset nnn) s t ∧
      t.pc.toNat = nnn.toNat + (s.reg 0).toNat

/-- A `call` that completes, followed by `return`, leaves `pc` at the address after the call and the stack as
before it (R151, R153, S6). -/
def Obligations.ReturnUndoesCall : Prop :=
  ∀ (s t : State) (nnn : Addr), s.fault = none → exec (.call nnn) s = .next t → t.fault = none →
    ∃ u, exec .ret t = .next u ∧ u.fault = none ∧ u.pc = s.pc + 2 ∧ u.stack = s.stack

/-- `skip-eq` and `skip-neq`: `pc` ends 4 past the instruction where the condition holds, else 2 past it
(R155, R156). -/
def Obligations.ImmediateSkips : Prop :=
  ∀ (s : State) (x : Reg) (nn : Byte),
    (∃ t, exec (.skipEq x nn) s = .next t ∧ FrameKept (.skipEq x nn) s t ∧
      t.pc = if s.reg x = nn then s.pc + 4 else s.pc + 2) ∧
    (∃ t, exec (.skipNeq x nn) s = .next t ∧ FrameKept (.skipNeq x nn) s t ∧
      t.pc = if s.reg x = nn then s.pc + 2 else s.pc + 4)

/-- `skip-reg-eq` and `skip-reg-neq`, `X = Y` included (R157, R158). -/
def Obligations.RegisterSkips : Prop :=
  ∀ (s : State) (x y : Reg),
    (∃ t, exec (.skipRegEq x y) s = .next t ∧ FrameKept (.skipRegEq x y) s t ∧
      t.pc = if s.reg x = s.reg y then s.pc + 4 else s.pc + 2) ∧
    (∃ t, exec (.skipRegNeq x y) s = .next t ∧ FrameKept (.skipRegNeq x y) s t ∧
      t.pc = if s.reg x = s.reg y then s.pc + 2 else s.pc + 4)

/-- A `jump` to its own address steps for ever without changing anything but the timers, which run down to 0
and stay there (R137, R134). -/
def Obligations.JumpToItselfOnlyRunsTheTimersDown : Prop :=
  ∀ (s : State) (nnn : Addr), s.fault = none → s.pc.toNat = nnn.toNat → nnn.toNat ≤ 0xFFE →
    decode s.wordAtPc = some (.jump nnn) →
    ∀ k : Nat, ∃ t : State, Sys2Proof.core.run k s = .next t ∧
      t = { s with DT := t.DT, ST := t.ST } ∧
      t.DT.toNat = s.DT.toNat - k ∧ t.ST.toNat = s.ST.toNat - k

/-! ## Registers and arithmetic -/

/-- `set Vx,NN` and `copy Vx,Vy` (R171, R173). -/
def Obligations.SetAndCopy : Prop :=
  ∀ (s : State) (x y : Reg) (nn : Byte),
    (∃ t, exec (.set x nn) s = .next t ∧ FrameKept (.set x nn) s t ∧ t.reg x = nn) ∧
    (∃ t, exec (.copy x y) s = .next t ∧ FrameKept (.copy x y) s t ∧ t.reg x = s.reg y)

/-- `add-imm Vx,NN`: the sum modulo 256 and no flag (R172). -/
def Obligations.AddImmediateWraps : Prop :=
  ∀ (s : State) (x : Reg) (nn : Byte),
    ∃ t, exec (.addImm x nn) s = .next t ∧ FrameKept (.addImm x nn) s t ∧
      (t.reg x).toNat = ((s.reg x).toNat + nn.toNat) % 256

/-- `or`, `and`, `xor`: bit by bit, no flag (R174, R175, R176). -/
def Obligations.LogicalOperations : Prop :=
  ∀ (s : State) (x y : Reg),
    (∃ t, exec (.or x y) s = .next t ∧ FrameKept (.or x y) s t ∧
      ∀ k, (t.reg x).getLsbD k = ((s.reg x).getLsbD k || (s.reg y).getLsbD k)) ∧
    (∃ t, exec (.and x y) s = .next t ∧ FrameKept (.and x y) s t ∧
      ∀ k, (t.reg x).getLsbD k = ((s.reg x).getLsbD k && (s.reg y).getLsbD k)) ∧
    (∃ t, exec (.xor x y) s = .next t ∧ FrameKept (.xor x y) s t ∧
      ∀ k, (t.reg x).getLsbD k = ((s.reg x).getLsbD k ^^ (s.reg y).getLsbD k))

/-- `add Vx,Vy`: the sum modulo 256 into `Vx`, the carry into `VF`; with `X = 15` the carry is what stays
(R177; the case `X = 15` is R170's decision D13, log entry 12). -/
def Obligations.AddSetsSumAndCarry : Prop :=
  ∀ (s : State) (x y : Reg),
    ∃ t, exec (.add x y) s = .next t ∧ FrameKept (.add x y) s t ∧
      (x ≠ 15 → (t.reg x).toNat = ((s.reg x).toNat + (s.reg y).toNat) % 256) ∧
      (t.reg 15).toNat = if 255 < (s.reg x).toNat + (s.reg y).toNat then 1 else 0

/-- `sub Vx,Vy` and `subn Vx,Vy`: the difference modulo 256 into `Vx`, 1 into `VF` exactly if there is no
borrow; with `X = 15` the flag is what stays (R178, R179, R183; the case `X = 15` is D13, log entry 12). -/
def Obligations.SubtractSetsDifferenceAndNotBorrow : Prop :=
  ∀ (s : State) (x y : Reg),
    (∃ t, exec (.sub x y) s = .next t ∧ FrameKept (.sub x y) s t ∧
      (x ≠ 15 → (t.reg x).toNat =
        if (s.reg y).toNat ≤ (s.reg x).toNat then (s.reg x).toNat - (s.reg y).toNat
        else (s.reg x).toNat + 256 - (s.reg y).toNat) ∧
      (t.reg 15).toNat = if (s.reg y).toNat ≤ (s.reg x).toNat then 1 else 0) ∧
    (∃ t, exec (.subn x y) s = .next t ∧ FrameKept (.subn x y) s t ∧
      (x ≠ 15 → (t.reg x).toNat =
        if (s.reg x).toNat ≤ (s.reg y).toNat then (s.reg y).toNat - (s.reg x).toNat
        else (s.reg y).toNat + 256 - (s.reg x).toNat) ∧
      (t.reg 15).toNat = if (s.reg x).toNat ≤ (s.reg y).toNat then 1 else 0)

/-- `shift-right Vx` and `shift-left Vx`: one position, the bit shifted out into `VF`; with `X = 15` the flag
is what stays (R180, R181; the case `X = 15` is D13, log entry 12). -/
def Obligations.ShiftsByOnePosition : Prop :=
  ∀ (s : State) (x : Reg),
    (∃ t, exec (.shiftRight x) s = .next t ∧ FrameKept (.shiftRight x) s t ∧
      (x ≠ 15 → (t.reg x).toNat = (s.reg x).toNat / 2) ∧
      (t.reg 15).toNat = (s.reg x).toNat % 2) ∧
    (∃ t, exec (.shiftLeft x) s = .next t ∧ FrameKept (.shiftLeft x) s t ∧
      (x ≠ 15 → (t.reg x).toNat = 2 * (s.reg x).toNat % 256) ∧
      (t.reg 15).toNat = (s.reg x).toNat / 128)

/-- `set-random Vx,NN`: the free byte of this draw masked by `NN`, so only bits of `NN` are set, and the draw
is used up (R182; the byte is a free value, D14, log entry 3: the statement holds whatever it is). -/
def Obligations.SetRandomMasksAFreeByte : Prop :=
  ∀ (s : State) (x : Reg) (nn : Byte),
    ∃ t, exec (.setRandom x nn) s = .next t ∧ FrameKept (.setRandom x nn) s t ∧
      t.reg x = Config.randomByte s.draws &&& nn ∧ t.draws = s.draws + 1 ∧
      ∀ k, (t.reg x).getLsbD k = true → nn.getLsbD k = true

/-- A flag writer leaves 0 or 1 in `VF`, whatever `X` is (R22, R170, D13). -/
def Obligations.FlagWritersLeaveZeroOrOne : Prop :=
  ∀ (i : Instr) (s t : State),
    ((∃ x y, i = .add x y ∨ i = .sub x y ∨ i = .subn x y) ∨
      (∃ x, i = .shiftRight x ∨ i = .shiftLeft x) ∨ (∃ x y n, i = .draw x y n)) →
    s.fault = none → exec i s = .next t → t.fault = none → t.reg 15 = 0 ∨ t.reg 15 = 1

/-- No instruction changes `VF` but the flag writers, those whose `X` field is 15 among the forms with a
destination register, and `load-regs VF` (R22). -/
def Obligations.OnlyFlagWritersTouchVF : Prop :=
  ∀ (i : Instr) (s t : State), exec i s = .next t → t.reg 15 ≠ s.reg 15 →
    (∃ x y, i = .add x y ∨ i = .sub x y ∨ i = .subn x y) ∨
    (∃ x, i = .shiftRight x ∨ i = .shiftLeft x) ∨ (∃ x y n, i = .draw x y n) ∨
    (∃ nn, i = .set 15 nn ∨ i = .addImm 15 nn ∨ i = .setRandom 15 nn) ∨
    (∃ y, i = .copy 15 y ∨ i = .or 15 y ∨ i = .and 15 y ∨ i = .xor 15 y) ∨
    i = .getDelay 15 ∨ i = .getKey 15 ∨ i = .loadRegs 15

/-! ## Index register and memory -/

/-- `set-I NNN` (R201). -/
def Obligations.SetIndex : Prop :=
  ∀ (s : State) (nnn : Addr),
    ∃ t, exec (.setI nnn) s = .next t ∧ FrameKept (.setI nnn) s t ∧ t.I.toNat = nnn.toNat

/-- `add-I Vx`: the sum modulo 65 536 and no flag (R202, D11). -/
def Obligations.AddToIndexWraps : Prop :=
  ∀ (s : State) (x : Reg),
    ∃ t, exec (.addI x) s = .next t ∧ FrameKept (.addI x) s t ∧
      t.I.toNat = (s.I.toNat + (s.reg x).toNat) % 65536

/-- `font-addr Vx`: the address of the glyph of the low nibble of `Vx` in the table at 0x050 (R203; the base is
D15, log entry 6). -/
def Obligations.FontAddress : Prop :=
  ∀ (s : State) (x : Reg),
    ∃ t, exec (.fontAddr x) s = .next t ∧ FrameKept (.fontAddr x) s t ∧
      t.I.toNat = 0x050 + 5 * ((s.reg x).toNat % 16)

/-- `bcd Vx` with the three bytes inside memory: the decimal digits of `Vx`, most significant first (R204; the
range is D6). -/
def Obligations.BcdStoresTheDigits : Prop :=
  ∀ (s : State) (x : Reg), s.I.toNat + 3 ≤ 4096 →
    ∃ t, exec (.bcd x) s = .next t ∧ FrameKept (.bcd x) s t ∧
      (t.mem.read s.I.toNat).toNat = (s.reg x).toNat / 100 ∧
      (t.mem.read (s.I.toNat + 1)).toNat = (s.reg x).toNat / 10 % 10 ∧
      (t.mem.read (s.I.toNat + 2)).toNat = (s.reg x).toNat % 10

/-- `store-regs Vx` with the block inside memory: `V0` to `VX` to the bytes from `I` (R205; `I` unchanged and
the index range are D25, the fault range D6). -/
def Obligations.StoreRegistersWritesTheBlock : Prop :=
  ∀ (s : State) (x : Reg), s.I.toNat + x.val + 1 ≤ 4096 →
    ∃ t, exec (.storeRegs x) s = .next t ∧ FrameKept (.storeRegs x) s t ∧
      ∀ k : Reg, k ≤ x → t.mem.read (s.I.toNat + k.val) = s.reg k

/-- `load-regs Vx` with the block inside memory: `V0` to `VX` from the bytes at `I` (R206; D6, D25). -/
def Obligations.LoadRegistersReadsTheBlock : Prop :=
  ∀ (s : State) (x : Reg), s.I.toNat + x.val + 1 ≤ 4096 →
    ∃ t, exec (.loadRegs x) s = .next t ∧ FrameKept (.loadRegs x) s t ∧
      ∀ k : Reg, k ≤ x → t.reg k = s.mem.read (s.I.toNat + k.val)

/-- `draw`, `bcd`, `store-regs` and `load-regs` whose byte range passes 0xFFF take MemoryOutOfRange: only the
latch changes, and the fault port then shows code 4, the instruction's address and its word (R281, R285, R66;
D6, D8, D9, D18). R281 and D9 record the FETCHED word: that the instruction's encoding is that word is the
model's deduction (log entry 2), and StepKeepsLatchTruthful says it of a step. -/
def Obligations.AccessBeyondMemoryFaults : Prop :=
  ∀ (i : Instr) (s : State), 0 < accessLength i → 4096 < s.I.toNat + accessLength i →
    ∃ t, exec i s = .next t ∧ t = { s with fault := some ⟨.memoryOutOfRange, s.pc, encode i⟩ } ∧
      t.faultPort = some (4, s.pc, encode i)

/-- `store-regs Vx` then `load-regs Vx` gives back every register (R205, R206; D25). -/
def Obligations.LoadUndoesStore : Prop :=
  ∀ (s t u : State) (x : Reg), s.fault = none → exec (.storeRegs x) s = .next t → t.fault = none →
    exec (.loadRegs x) t = .next u → u.fault = none ∧ u.V = s.V

/-! ## Display -/

/-- `clear-screen` leaves all 2048 cells unlit and writes no flag (R222, R227). -/
def Obligations.ClearScreenUnlightsEveryCell : Prop :=
  ∀ s : State,
    ∃ t, exec .clearScreen s = .next t ∧ FrameKept .clearScreen s t ∧
      ∀ x y, x < 64 → y < 32 → t.fb.cell x y = false

/-- `draw Vx,Vy,N` with the sprite inside memory: each cell inside the grid is turned over exactly if a set bit
of the sprite lies on it, start coordinates reduced and the sprite clipped, and `VF` is 1 exactly if a lit
cell was turned over; `N = 0` included (R223 to R225, R228, R231; bit order D17, `N = 0` D18, range D6). -/
def Obligations.DrawXorsTheClippedSprite : Prop :=
  ∀ (s : State) (x y : Reg) (n : Nibble), n = 0 ∨ s.I.toNat + n.toNat ≤ 4096 →
    ∃ t, exec (.draw x y n) s = .next t ∧ FrameKept (.draw x y n) s t ∧
      (∀ cx cy, cx < 64 → cy < 32 → t.fb.cell cx cy = (s.fb.cell cx cy ^^
        spriteCovers ((s.reg x).toNat % 64) ((s.reg y).toNat % 32)
          ((List.range n.toNat).map fun k => s.mem.read (s.I.toNat + k)) cx cy)) ∧
      (t.reg 15 = 0 ∨ t.reg 15 = 1) ∧
      (t.reg 15 = 1 ↔ ∃ cx cy, cx < 64 ∧ cy < 32 ∧ s.fb.cell cx cy = true ∧
        spriteCovers ((s.reg x).toNat % 64) ((s.reg y).toNat % 32)
          ((List.range n.toNat).map fun k => s.mem.read (s.I.toNat + k)) cx cy = true)

/-- Blitting the same sprite twice at the same place gives the grid back, and the second blit collides exactly
if the first one lit a cell (R229 (a) and (b), marked `[derived]`; C2). -/
def Obligations.SecondBlitRestoresTheGrid : Prop :=
  ∀ (g : Grid) (x0 y0 : Nat) (rows : List Byte), x0 < 64 → y0 < 32 →
    (fbBlit x0 y0 rows (fbBlit x0 y0 rows g).1).1 = g ∧
    ((fbBlit x0 y0 rows (fbBlit x0 y0 rows g).1).2 = true ↔
      ∃ x y, x < 64 ∧ y < 32 ∧ g.cell x y = false ∧ spriteCovers x0 y0 rows x y = true)

/-! ## Timers and keys -/

/-- `get-delay Vx` reads the delay timer as this step's own tick left it, and leaves it so (R251). -/
def Obligations.GetDelayReadsTheTickedTimer : Prop :=
  ∀ (s : State) (x : Reg),
    ∃ t, exec (.getDelay x) s = .next t ∧ FrameKept (.getDelay x) s t ∧
      (t.reg x).toNat = s.DT.toNat - 1

/-- `set-delay Vx` and `set-sound Vx`: the timer holds exactly `Vx` at the end of the step, and the sound bit
is then 1 exactly if `Vx` is not 0 (R252, R253). -/
def Obligations.SetTimers : Prop :=
  ∀ (s : State) (x : Reg),
    (∃ t, exec (.setDelay x) s = .next t ∧ FrameKept (.setDelay x) s t ∧ t.DT = s.reg x) ∧
    (∃ t, exec (.setSound x) s = .next t ∧ FrameKept (.setSound x) s t ∧ t.ST = s.reg x ∧
      (t.soundActive = true ↔ 0 < (s.reg x).toNat))

/-- A `set-delay` followed at once by a `get-delay` reads one less than was set, or 0 if 0 was set (R317). -/
def Obligations.SetDelayThenGetDelayReadsOneLess : Prop :=
  ∀ (s t u : State) (x y : Reg), exec (.setDelay x) s = .next t → exec (.getDelay y) t = .next u →
    (u.reg y).toNat = (s.reg x).toNat - 1

/-- `skip-key-pressed Vx` skips exactly if the latch holds the key of the low nibble of `Vx` (R257). -/
def Obligations.SkipIfKeyPressed : Prop :=
  ∀ (s : State) (x : Reg),
    ∃ t, exec (.skipKeyPressed x) s = .next t ∧ FrameKept (.skipKeyPressed x) s t ∧
      t.pc = if (∃ k, s.key = some k ∧ k.toNat = (s.reg x).toNat % 16) then s.pc + 4 else s.pc + 2

/-- `skip-key-not-pressed Vx` skips exactly if it does not, so always with an empty latch (R258, D26). -/
def Obligations.SkipIfKeyNotPressed : Prop :=
  ∀ (s : State) (x : Reg),
    ∃ t, exec (.skipKeyNotPressed x) s = .next t ∧ FrameKept (.skipKeyNotPressed x) s t ∧
      t.pc = if (∃ k, s.key = some k ∧ k.toNat = (s.reg x).toNat % 16) then s.pc + 2 else s.pc + 4

/-- `get-key Vx` with a key latched: its code into `Vx`, `pc` past the instruction, the latch as it was (R259;
that the latch is not consumed is D20). -/
def Obligations.GetKeyReadsTheLatch : Prop :=
  ∀ (s : State) (x : Reg) (k : Nibble), s.key = some k →
    ∃ t, exec (.getKey x) s = .next t ∧ FrameKept (.getKey x) s t ∧ (t.reg x).toNat = k.toNat ∧
      t.pc = s.pc + 2

/-- `get-key Vx` with an empty latch: `pc` ends where it began and no register is written; only the timers have
ticked (R259, C6). -/
def Obligations.GetKeyWithoutAKeyRewinds : Prop :=
  ∀ (s : State) (x : Reg), s.key = none →
    ∃ t, exec (.getKey x) s = .next t ∧ FrameKept (.getKey x) s t ∧ t = { s with DT := t.DT, ST := t.ST }

/-- A press overwrites the latch, a release of any key empties it whatever it held, and neither changes
anything else, in any state (R255, R256; the single latch is D19). -/
def Obligations.KeyEventsWriteTheLatchOnly : Prop :=
  ∀ (s : State) (k l : Nibble),
    (s.hostMove (.keyPress k)).key = some k ∧
    ((s.hostMove (.keyPress k)).hostMove (.keyPress l)).key = some l ∧
    (s.hostMove (.keyRelease l)).key = none ∧
    ((s.hostMove (.keyPress k)).hostMove (.keyRelease l)).key = none ∧
    { s.hostMove (.keyPress k) with key := s.key } = s ∧
    { s.hostMove (.keyRelease k) with key := s.key } = s

/-! ## Reset and load -/

/-- What reset leaves: `pc` at 0x200, which the source's scenarios give, and the zeros of R33, which are the
spec's decision D16 (log entry 5), for the empty image (log entry 11); memory holds the font table of D15 and
zeros (log entry 6). -/
def Obligations.ResetState : Prop :=
  State.reset.pc = 0x200 ∧ (∀ r, State.reset.reg r = 0) ∧ State.reset.I = 0 ∧ State.reset.stack = [] ∧
  State.reset.DT = 0 ∧ State.reset.ST = 0 ∧ (∀ x y, State.reset.fb.cell x y = false) ∧
  State.reset.key = none ∧ State.reset.fault = none ∧
  (∀ a, State.reset.mem.read a =
    if 0x050 ≤ a ∧ a < 0x0A0 then Config.font.getD (a - 0x050) 0 else 0)

/-- `load` of an image of at most 3584 bytes: the image byte for byte from 0x200, the font table and zeros
elsewhere, and every other element of the spec's state as reset leaves it. Called on an existing machine, also
a halted one, it gives that same state, the fault latch clear and nothing of the earlier run surviving (R290,
R310, R311, R33; D15, D16, D22). The model's own counter `draws` alone is not reset: a load keeps the number
it is given, which on an existing machine is that machine's (log entry 4). -/
def Obligations.LoadPlacesTheImage : Prop :=
  ∀ (image : List Byte) (draws : Nat), image.length ≤ 3584 →
    ∃ t, State.load image draws = .ok t ∧
      (∀ k, k < image.length → t.mem.read (0x200 + k) = image.getD k 0) ∧
      (∀ a, a < 0x200 ∨ 0x200 + image.length ≤ a → t.mem.read a =
        if 0x050 ≤ a ∧ a < 0x0A0 then Config.font.getD (a - 0x050) 0 else 0) ∧
      t = { State.reset with mem := t.mem, draws := draws } ∧
      ∀ s : State, loadError image = false ∧ s.hostMove (.load image) = { t with draws := s.draws } ∧
        (s.hostMove (.load image)).fault = none

/-- `load` of a longer image is a load error, and a machine it is called on stays as it was (R312, D22). -/
def Obligations.LoadOfALongImageChangesNothing : Prop :=
  ∀ (image : List Byte) (draws : Nat) (s : State), 3584 < image.length →
    State.load image draws = .error .imageTooLong ∧ loadError image = true ∧
      s.hostMove (.load image) = s

/-! ## Invariants and whole-machine rules -/

/-- Every step keeps memory in its canonical form, inside the 4096 bytes. That memory has 4096 bytes is R50,
and that a write stays inside them R53; the canonical form itself is the model's choice of how it lists them
(log entry 10). -/
def Obligations.StepKeepsMemoryCanonical : Prop :=
  ∀ s t : State, s.MemoryCanonical → step s = .next t → t.MemoryCanonical

/-- Every step keeps `pc` at most 0x10FE, at most 16 return addresses, and each of them at most 0x1000 (R24,
R25, R151, R153: R24 marks the bound `[derived]`, R25 the depth D10). -/
def Obligations.StepKeepsControlBounded : Prop :=
  ∀ s t : State, s.ControlBounded → step s = .next t → t.ControlBounded

/-- Every step keeps the latch truthful: where it is set, it names the address and the word of the instruction
that faulted and a cause that still holds (R281 to R286, R288, R289; D6 to D10). The word recorded for a fault
of the execute phase is the one in memory: this is what log entry 2 deduces. -/
def Obligations.StepKeepsLatchTruthful : Prop :=
  ∀ s t : State, s.LatchTruthful → step s = .next t → t.LatchTruthful

/-- The three invariants hold at reset (R33, D16). The reset state is the model's load of the empty image (log
entry 11), and one invariant is the model's canonical form of memory (log entry 10). -/
def Obligations.ResetMeetsTheInvariants : Prop :=
  State.reset.MemoryCanonical ∧ State.reset.ControlBounded ∧ State.reset.LatchTruthful

/-- In every state an execution can reach, by loads, steps and key events in any order, the three invariants
hold (R9, R24, R25, R310; D8, D10, D16). The invariant on memory is the model's canonical form (log entry 10),
and what the host can do between steps is log entry 16. -/
def Obligations.ReachableStatesMeetTheInvariants : Prop :=
  ∀ s : State, Reachable s → s.MemoryCanonical ∧ s.ControlBounded ∧ s.LatchTruthful

/-- The access matrix, all 34 instructions: executed on a running machine, an instruction either completes and
changes nothing its row does not mark, or takes a fault and changes nothing but the latch (R34, R133; the
latch is D8, a fault as a next state log entry 1). -/
def Obligations.InstructionsChangeOnlyWhatTheMatrixMarks : Prop :=
  ∀ (i : Instr) (s t : State), s.fault = none → exec i s = .next t →
    (t.fault = none ∧ FrameKept i s t) ∨ ∃ r : FaultRecord, t = { s with fault := some r }

/-- No instruction reads the sound timer: two machines that differ in `ST` alone step to machines that differ
in `ST` alone (R27). -/
def Obligations.SoundTimerIsNeverRead : Prop :=
  ∀ (s t : State) (v : Byte), step s = .next t →
    ∃ w, step { s with ST := v } = .next { t with ST := w }

/-- The fault port and its 3-bit code: no fault and code 0 exactly while the latch is empty, else the code 1 to
5 of the fault with the recorded address and word, for each of the five faults (R30, R281; D8, D9). -/
def Obligations.FaultPortShowsTheLatch : Prop :=
  ∀ (s : State) (f : Fault) (a w : Word),
    (s.fault = none → s.faultPort = none ∧ s.faultCode = 0) ∧
    (s.fault = some ⟨f, a, w⟩ → s.faultPort = some (s.faultCode, a, w) ∧
      (s.faultCode.toNat = 1 ↔ f = .decodeFailure) ∧
      (s.faultCode.toNat = 2 ↔ f = .stackUnderflow) ∧
      (s.faultCode.toNat = 3 ↔ f = .stackOverflow) ∧
      (s.faultCode.toNat = 4 ↔ f = .memoryOutOfRange) ∧
      (s.faultCode.toNat = 5 ↔ f = .fetchOutOfRange))
end

