-- ==== Sys2Proof/Laws/Decode.lean ====
section
/-! SUPPORT. The small lemmas of the decoder and the encoder: what the fields of a word and the words of a
format are as numbers, and that each field of a format's word is the operand put there. -/

namespace Sys2Proof

theorem append_toNat {v w : Nat} (a : BitVec v) (b : BitVec w) :
    (a ++ b).toNat = a.toNat * 2 ^ w + b.toNat := by
  rw [BitVec.toNat_append, ← Nat.shiftLeft_add_eq_or_of_lt b.isLt, Nat.shiftLeft_eq]

@[simp] theorem regBits_toNat (x : Reg) : (regBits x).toNat = x.val := rfl

theorem wordA_toNat (f : Nibble) (a : Addr) : (wordA f a).toNat = f.toNat * 4096 + a.toNat :=
  append_toNat f a

theorem wordXI_toNat (f : Nibble) (x : Reg) (nn : Byte) :
    (wordXI f x nn).toNat = (f.toNat * 16 + x.val) * 256 + nn.toNat := by
  have h : (wordXI f x nn).toNat = (f ++ regBits x).toNat * 2 ^ 8 + nn.toNat := append_toNat _ nn
  rw [h, append_toNat, regBits_toNat]
  norm_num

theorem wordXY_toNat (f : Nibble) (x y : Reg) (n : Nibble) :
    (wordXY f x y n).toNat = (f.toNat * 16 + x.val) * 256 + (y.val * 16 + n.toNat) := by
  have h : (wordXY f x y n).toNat = (f ++ regBits x).toNat * 2 ^ 8 + (regBits y ++ n).toNat :=
    append_toNat _ (regBits y ++ n)
  rw [h, append_toNat, append_toNat, regBits_toNat, regBits_toNat]
  norm_num

theorem famOf_toNat (w : Word) : (famOf w).toNat = w.toNat / 4096 := by
  have := w.isLt
  simp only [famOf, BitVec.extractLsb'_toNat, Nat.shiftRight_eq_div_pow]
  omega

theorem xOf_val (w : Word) : (xOf w).val = w.toNat / 256 % 16 := by
  change (w.extractLsb' 8 4).toNat = _
  simp only [BitVec.extractLsb'_toNat, Nat.shiftRight_eq_div_pow]

theorem yOf_val (w : Word) : (yOf w).val = w.toNat / 16 % 16 := by
  change (w.extractLsb' 4 4).toNat = _
  simp only [BitVec.extractLsb'_toNat, Nat.shiftRight_eq_div_pow]

theorem nOf_toNat (w : Word) : (nOf w).toNat = w.toNat % 16 := by
  simp [nOf, BitVec.extractLsb'_toNat]

theorem nnOf_toNat (w : Word) : (nnOf w).toNat = w.toNat % 256 := by
  simp [nnOf, BitVec.extractLsb'_toNat]

theorem nnnOf_toNat (w : Word) : (nnnOf w).toNat = w.toNat % 4096 := by
  simp [nnnOf, BitVec.extractLsb'_toNat]

theorem wordOfBytes_toNat (hi lo : Byte) : (wordOfBytes hi lo).toNat = hi.toNat * 256 + lo.toNat :=
  append_toNat hi lo

/-- Laying a word out in bytes and reading it back gives the word (R54). -/
theorem wordOfBytes_hiByte_loByte (w : Word) : wordOfBytes (hiByte w) (loByte w) = w := by
  apply BitVec.eq_of_toNat_eq
  have := w.isLt
  rw [wordOfBytes_toNat]
  simp only [hiByte, loByte, BitVec.extractLsb'_toNat, Nat.shiftRight_eq_div_pow]
  omega

/-! ## The fields of a format's word -/

theorem famOf_wordA (f : Nibble) (a : Addr) : famOf (wordA f a) = f := by
  apply BitVec.eq_of_toNat_eq
  have := a.isLt
  rw [famOf_toNat, wordA_toNat]
  omega

theorem nnnOf_wordA (f : Nibble) (a : Addr) : nnnOf (wordA f a) = a := by
  apply BitVec.eq_of_toNat_eq
  have := a.isLt
  rw [nnnOf_toNat, wordA_toNat]
  omega

theorem famOf_wordXI (f : Nibble) (x : Reg) (nn : Byte) : famOf (wordXI f x nn) = f := by
  apply BitVec.eq_of_toNat_eq
  have := nn.isLt
  have := x.isLt
  rw [famOf_toNat, wordXI_toNat]
  omega

theorem xOf_wordXI (f : Nibble) (x : Reg) (nn : Byte) : xOf (wordXI f x nn) = x := by
  apply Fin.ext
  have := nn.isLt
  have := x.isLt
  rw [xOf_val, wordXI_toNat]
  omega

theorem nnOf_wordXI (f : Nibble) (x : Reg) (nn : Byte) : nnOf (wordXI f x nn) = nn := by
  apply BitVec.eq_of_toNat_eq
  have := nn.isLt
  rw [nnOf_toNat, wordXI_toNat]
  omega

theorem famOf_wordXY (f : Nibble) (x y : Reg) (n : Nibble) : famOf (wordXY f x y n) = f := by
  apply BitVec.eq_of_toNat_eq
  have := n.isLt
  have := x.isLt
  have := y.isLt
  rw [famOf_toNat, wordXY_toNat]
  omega

theorem xOf_wordXY (f : Nibble) (x y : Reg) (n : Nibble) : xOf (wordXY f x y n) = x := by
  apply Fin.ext
  have := n.isLt
  have := x.isLt
  have := y.isLt
  rw [xOf_val, wordXY_toNat]
  omega

theorem yOf_wordXY (f : Nibble) (x y : Reg) (n : Nibble) : yOf (wordXY f x y n) = y := by
  apply Fin.ext
  have := n.isLt
  have := y.isLt
  rw [yOf_val, wordXY_toNat]
  omega

theorem nOf_wordXY (f : Nibble) (x y : Reg) (n : Nibble) : nOf (wordXY f x y n) = n := by
  apply BitVec.eq_of_toNat_eq
  have := n.isLt
  rw [nOf_toNat, wordXY_toNat]
  omega

/-! ## The three ways a byte sequence decodes -/

theorem decodeBytes_cases (bs : List Byte) :
    (∃ hi lo rest i, bs = hi :: lo :: rest ∧ decode (wordOfBytes hi lo) = some i ∧
        decodeBytes bs = .ok (i, rest)) ∨
      (∃ hi lo rest, bs = hi :: lo :: rest ∧ decode (wordOfBytes hi lo) = none ∧
        decodeBytes bs = .error (.noForm (wordOfBytes hi lo))) ∨
      (bs.length < 2 ∧ decodeBytes bs = .error .truncated) := by
  match bs with
  | [] => exact .inr (.inr ⟨by simp, rfl⟩)
  | [_] => exact .inr (.inr ⟨by simp, rfl⟩)
  | hi :: lo :: rest =>
    cases h : decode (wordOfBytes hi lo) with
    | some i => exact .inl ⟨hi, lo, rest, i, rfl, h, by simp [decodeBytes, h]⟩
    | none => exact .inr (.inl ⟨hi, lo, rest, rfl, h, by simp [decodeBytes, h]⟩)

/-- Laid out in bytes and decoded from them, a word gives what the decoder gives it. -/
theorem decodeTableWord_eq_decode (nbits w : Nat) :
    decodeTableWord nbits w = decode (tableWord nbits w) := by
  simp only [decodeTableWord, bytesOfWord, decodeBytes, wordOfBytes_hiByte_loByte]
  cases decode (tableWord nbits w) <;> rfl

end Sys2Proof
end

