-- ==== Sys2Proof/Laws/FrameBuffer.lean ====
section
/-! SUPPORT. The small lemmas of the grid: which cell a flip changes, what a cleared grid holds, and when two
grids are equal. -/

namespace Sys2Proof.Machine

theorem Grid.cell_of_lt (g : Grid) {x y : Nat} (hx : x < 64) (hy : y < 32) : g.cell x y = g[y][x] := by
  simp [Grid.cell, hx, hy]

theorem Grid.cell_outside (g : Grid) {x y : Nat} (h : ¬ (y < 32 ∧ x < 64)) : g.cell x y = false := by
  simp [Grid.cell, h]

theorem Grid.cell_blank (x y : Nat) : Grid.blank.cell x y = false := by
  simp [Grid.cell, Grid.blank]

/-- A flip turns one cell over and leaves every other as it was (R223). -/
theorem Grid.cell_flip (g : Grid) {x y : Nat} (hx : x < 64) (hy : y < 32) (u v : Nat) :
    (g.flip x y).cell u v = if u = x ∧ v = y then !g.cell x y else g.cell u v := by
  by_cases hin : v < 32 ∧ u < 64
  · rw [Grid.cell_of_lt _ hin.2 hin.1, Grid.cell_of_lt g hin.2 hin.1, Grid.cell_of_lt g hx hy]
    simp only [Grid.flip, dif_pos (And.intro hy hx)]
    by_cases hv : v = y
    · subst hv
      by_cases hu : u = x
      · subst hu
        simp
      · have hu' : ¬ x = u := fun h => hu h.symm
        simp [hu, hu']
    · have hv' : ¬ y = v := fun h => hv h.symm
      simp [hv, hv']
  · have hne : ¬ (u = x ∧ v = y) := by omega
    rw [Grid.cell_outside _ hin, Grid.cell_outside _ hin, if_neg hne]

/-- Two grids with the same cells are the same grid. -/
theorem Grid.ext_cells {g g' : Grid} (h : ∀ x y, x < 64 → y < 32 → g.cell x y = g'.cell x y) : g = g' := by
  apply Vector.ext
  intro y hy
  apply Vector.ext
  intro x hx
  have := h x y hx hy
  rwa [Grid.cell_of_lt _ hx hy, Grid.cell_of_lt _ hx hy] at this

end Sys2Proof.Machine
end

