-- ==== Sys2Proof/Laws/Memory.lean ====
section
/-! SUPPORT. The laws of memory: a read after a write to the same place gives the value written, a write
leaves every other place alone, and every operation keeps the canonical form. -/

namespace Sys2Proof.Machine

theorem lookup_erase (m : Memory) (a k : Nat) :
    (m.erase a).lookup k = if k = a then none else m.lookup k := by
  induction m with
  | nil => simp [Memory.erase]
  | cons c rest ih =>
    obtain ⟨ca, cb⟩ := c
    simp only [Memory.erase] at ih ⊢
    by_cases hc : ca = a
    · subst hc
      rw [List.filter_cons_of_neg (by simp), ih]
      by_cases hk : k = ca
      · rw [if_pos hk, if_pos hk]
      · have : (k == ca) = false := by simpa using hk
        simp [hk, List.lookup_cons, this]
    · by_cases hk : k = ca
      · subst hk
        simp [hc]
      · have : (k == ca) = false := by simpa using hk
        simp [hc, ih, List.lookup_cons, this]

theorem lookup_insert (m : Memory) (a k : Nat) (b : Byte) (h : m.lookup a = none) :
    (Memory.insert a b m).lookup k = if k = a then some b else m.lookup k := by
  induction m with
  | nil =>
    by_cases hk : k = a
    · simp [Memory.insert, hk]
    · have : (k == a) = false := by simpa using hk
      simp [Memory.insert, List.lookup_cons, this, hk]
  | cons c rest ih =>
    obtain ⟨ca, cb⟩ := c
    have hne : ca ≠ a := by
      rintro rfl
      simp at h
    have hac : (a == ca) = false := by simpa using Ne.symm hne
    have hr : List.lookup a rest = none := by simpa [List.lookup_cons, hac] using h
    simp only [Memory.insert]
    split
    · by_cases hk : k = a
      · simp [hk]
      · have : (k == a) = false := by simpa using hk
        simp [List.lookup_cons, this, hk]
    · by_cases hk : k = ca
      · subst hk
        simp [hne]
      · have : (k == ca) = false := by simpa using hk
        simp [List.lookup_cons, this, ih hr]

/-- A read after a write: the value written at its address, what was there before at every other. -/
theorem Memory.read_write (m : Memory) (a k : Nat) (b : Byte) :
    (m.write a b).read k = if k = a then b else m.read k := by
  simp only [Memory.write, Memory.read]
  split
  · rw [lookup_erase]
    by_cases hk : k = a <;> simp_all
  · rw [lookup_insert _ _ _ _ (by rw [lookup_erase]; simp), lookup_erase]
    by_cases hk : k = a <;> simp_all

theorem Memory.read_write_same (m : Memory) (a : Nat) (b : Byte) : (m.write a b).read a = b := by
  simp [Memory.read_write]

theorem Memory.read_write_other (m : Memory) {a k : Nat} (b : Byte) (h : k ≠ a) :
    (m.write a b).read k = m.read k := by
  simp [Memory.read_write, h]

@[simp] theorem Memory.read_nil (k : Nat) : Memory.read [] k = Memory.resetByte k := rfl

/-- What a run of bytes written at `a` leaves at each address. -/
theorem Memory.read_writeBytes (bs : List Byte) (m : Memory) (a k : Nat) :
    (m.writeBytes a bs).read k
      = if a ≤ k ∧ k < a + bs.length then bs.getD (k - a) 0 else m.read k := by
  induction bs generalizing m a with
  | nil =>
    have : ¬ (a ≤ k ∧ k < a + ([] : List Byte).length) := by simp
    simp only [Memory.writeBytes, if_neg this]
  | cons b bs ih =>
    simp only [Memory.writeBytes, ih, Memory.read_write, List.length_cons]
    by_cases hk : k = a
    · subst hk
      simp
    · by_cases hin : a + 1 ≤ k ∧ k < a + 1 + bs.length
      · have h2 : a ≤ k ∧ k < a + (bs.length + 1) := by omega
        obtain ⟨d, rfl⟩ : ∃ d, k = a + 1 + d := ⟨k - (a + 1), by omega⟩
        rw [if_pos hin, if_pos h2, show a + 1 + d - (a + 1) = d by omega,
          show a + 1 + d - a = d + 1 by omega, List.getD_cons_succ]
      · have h2 : ¬ (a ≤ k ∧ k < a + (bs.length + 1)) := by omega
        rw [if_neg hin, if_neg h2, if_neg hk]

@[simp] theorem Memory.length_readBytes (n : Nat) (m : Memory) (a : Nat) :
    (m.readBytes a n).length = n := by
  induction n generalizing a with
  | zero => rfl
  | succ n ih => simp [Memory.readBytes, ih]

theorem Memory.getD_readBytes (n : Nat) (m : Memory) (a k : Nat) (h : k < n) :
    (m.readBytes a n).getD k 0 = m.read (a + k) := by
  induction n generalizing a k with
  | zero => omega
  | succ n ih =>
    cases k with
    | zero => simp [Memory.readBytes]
    | succ k =>
      rw [Memory.readBytes, List.getD_cons_succ, ih (a + 1) k (by omega),
        show a + 1 + k = a + (k + 1) by omega]

/-! ## The canonical form -/

theorem canonicalFrom_mono {lo lo' : Nat} (h : lo' ≤ lo) :
    ∀ {m : Memory}, Memory.canonicalFrom lo m = true → Memory.canonicalFrom lo' m = true
  | [], _ => rfl
  | (a, b) :: rest, hm => by
    simp only [Memory.canonicalFrom, Bool.and_eq_true, decide_eq_true_eq] at hm ⊢
    exact ⟨⟨⟨by omega, hm.1.1.2⟩, hm.1.2⟩, hm.2⟩

theorem canonicalFrom_erase (a : Nat) :
    ∀ {lo : Nat} {m : Memory}, Memory.canonicalFrom lo m = true →
      Memory.canonicalFrom lo (m.erase a) = true
  | _, [], _ => rfl
  | lo, (ca, cb) :: rest, hm => by
    simp only [Memory.canonicalFrom, Bool.and_eq_true, decide_eq_true_eq] at hm
    have ih := canonicalFrom_erase a hm.2
    by_cases hc : ca = a
    · have he : Memory.erase ((ca, cb) :: rest) a = Memory.erase rest a := by
        simp [Memory.erase, hc]
      rw [he]
      exact canonicalFrom_mono (by omega) ih
    · have he : Memory.erase ((ca, cb) :: rest) a = (ca, cb) :: Memory.erase rest a := by
        simp [Memory.erase, hc]
      rw [he]
      simp only [Memory.canonicalFrom, Bool.and_eq_true, decide_eq_true_eq]
      exact ⟨hm.1, ih⟩

theorem canonicalFrom_insert {a : Nat} {b : Byte} (ha : a < Config.memSize)
    (hb : b ≠ Memory.resetByte a) :
    ∀ {lo : Nat} {m : Memory}, lo ≤ a → m.lookup a = none → Memory.canonicalFrom lo m = true →
      Memory.canonicalFrom lo (Memory.insert a b m) = true
  | lo, [], hlo, _, _ => by simp [Memory.insert, Memory.canonicalFrom, hlo, ha, hb]
  | lo, (ca, cb) :: rest, hlo, hl, hm => by
    simp only [Memory.canonicalFrom, Bool.and_eq_true, decide_eq_true_eq] at hm
    have hne : ca ≠ a := by
      rintro rfl
      simp at hl
    have hac : (a == ca) = false := by simpa using Ne.symm hne
    have hr : List.lookup a rest = none := by simpa [List.lookup_cons, hac] using hl
    simp only [Memory.insert]
    split
    · rename_i hlt
      have hlt : a < ca := hlt
      simp only [Memory.canonicalFrom, Bool.and_eq_true, decide_eq_true_eq]
      exact ⟨⟨⟨hlo, ha⟩, by simpa using hb⟩, ⟨⟨by omega, hm.1.1.2⟩, hm.1.2⟩, hm.2⟩
    · rename_i hge
      have hge : ¬ a < ca := hge
      have ih := canonicalFrom_insert ha hb (lo := ca + 1) (by omega) hr hm.2
      simp only [Memory.canonicalFrom, Bool.and_eq_true, decide_eq_true_eq]
      exact ⟨hm.1, ih⟩

/-- Memory that lists nothing, as reset leaves it, is canonical. -/
theorem Memory.wf_nil : Memory.wf [] = true := rfl

/-- A write inside memory keeps the canonical form. -/
theorem Memory.wf_write {m : Memory} {a : Nat} (b : Byte) (ha : a < Config.memSize)
    (hm : m.wf = true) : (m.write a b).wf = true := by
  simp only [Memory.wf, Memory.write] at hm ⊢
  split
  · exact canonicalFrom_erase a hm
  · rename_i hb
    exact canonicalFrom_insert ha hb (Nat.zero_le a) (by rw [lookup_erase]; simp)
      (canonicalFrom_erase a hm)

/-- A run of bytes written inside memory keeps the canonical form. -/
theorem Memory.wf_writeBytes {bs : List Byte} {m : Memory} {a : Nat}
    (ha : a + bs.length ≤ Config.memSize) (hm : m.wf = true) : (m.writeBytes a bs).wf = true := by
  induction bs generalizing m a with
  | nil => exact hm
  | cons b bs ih =>
    simp only [List.length_cons] at ha
    exact ih (by omega) (Memory.wf_write b (by omega) hm)

/-- Two canonical memories that read the same everywhere are the same list: equal memories are equal
data. -/
theorem canonicalFrom_ext :
    ∀ {lo : Nat} {m m' : Memory}, Memory.canonicalFrom lo m = true →
      Memory.canonicalFrom lo m' = true → (∀ a, m.read a = m'.read a) → m = m' := by
  have below : ∀ {lo : Nat} {m : Memory} {a : Nat}, Memory.canonicalFrom lo m = true → a < lo →
      m.lookup a = none := by
    intro lo m
    induction m generalizing lo with
    | nil => intros; rfl
    | cons c rest ih =>
      obtain ⟨ca, cb⟩ := c
      intro a hm hlt
      simp only [Memory.canonicalFrom, Bool.and_eq_true, decide_eq_true_eq] at hm
      have : (a == ca) = false := by
        have : a ≠ ca := by omega
        simpa using this
      rw [List.lookup_cons, this]
      exact ih hm.2 (by omega)
  have absent : ∀ {lo : Nat} {m : Memory} {a : Nat}, Memory.canonicalFrom lo m = true → a < lo →
      m.read a = Memory.resetByte a := by
    intro lo m a hm hlt
    rw [Memory.read, below hm hlt]
    rfl
  have head : ∀ (a : Nat) (b : Byte) (rest : Memory), Memory.read ((a, b) :: rest) a = b := by
    intro a b rest
    simp [Memory.read]
  have tail : ∀ {a : Nat} {b : Byte} {rest : Memory} {k : Nat}, k ≠ a →
      Memory.read ((a, b) :: rest) k = Memory.read rest k := by
    intro a b rest k hk
    have : (k == a) = false := by simpa using hk
    simp [Memory.read, List.lookup_cons, this]
  intro lo m
  induction m generalizing lo with
  | nil =>
    intro m' _ hm' hr
    match m' with
    | [] => rfl
    | (a, b) :: rest =>
      simp only [Memory.canonicalFrom, Bool.and_eq_true, decide_eq_true_eq, bne_iff_ne] at hm'
      exact absurd ((hr a).trans (head a b rest)).symm hm'.1.2
  | cons c rest ih =>
    obtain ⟨a, b⟩ := c
    intro m' hm hm' hr
    simp only [Memory.canonicalFrom, Bool.and_eq_true, decide_eq_true_eq, bne_iff_ne] at hm
    match m' with
    | [] => exact absurd ((head a b rest).symm.trans (hr a)) hm.1.2
    | (a', b') :: rest' =>
      simp only [Memory.canonicalFrom, Bool.and_eq_true, decide_eq_true_eq, bne_iff_ne] at hm'
      have key : a = a' := by
        rcases Nat.lt_trichotomy a a' with hlt | heq | hgt
        · have h := hr a
          rw [head, tail (by omega), absent hm'.2 (by omega)] at h
          exact absurd h hm.1.2
        · exact heq
        · have h := hr a'
          rw [head, tail (by omega), absent hm.2 (by omega)] at h
          exact absurd h.symm hm'.1.2
      subst key
      have hb : b = b' := by
        have h := hr a
        rwa [head, head] at h
      subst hb
      congr 1
      refine ih hm.2 hm'.2 (fun k => ?_)
      by_cases hk : k = a
      · subst hk
        rw [absent hm.2 (by omega), absent hm'.2 (by omega)]
      · have h := hr k
        rwa [tail hk, tail hk] at h

end Sys2Proof.Machine
end

