-- ==== Sys2Proof/Laws/State.lean ====
section
/-! SUPPORT. One lemma per field per update of the state, so that no later proof unfolds a record update. -/

namespace Sys2Proof.Machine

@[simp] theorem State.setReg_mem (s : State) (r : Reg) (v : Byte) : (s.setReg r v).mem = s.mem := rfl
@[simp] theorem State.setReg_V (s : State) (r : Reg) (v : Byte) :
    (s.setReg r v).V =
      s.V.set r.val v := rfl
@[simp] theorem State.setReg_I (s : State) (r : Reg) (v : Byte) : (s.setReg r v).I = s.I := rfl
@[simp] theorem State.setReg_pc (s : State) (r : Reg) (v : Byte) : (s.setReg r v).pc = s.pc := rfl
@[simp] theorem State.setReg_stack (s : State) (r : Reg) (v : Byte) :
    (s.setReg r v).stack =
      s.stack := rfl
@[simp] theorem State.setReg_DT (s : State) (r : Reg) (v : Byte) : (s.setReg r v).DT = s.DT := rfl
@[simp] theorem State.setReg_ST (s : State) (r : Reg) (v : Byte) : (s.setReg r v).ST = s.ST := rfl
@[simp] theorem State.setReg_fb (s : State) (r : Reg) (v : Byte) : (s.setReg r v).fb = s.fb := rfl
@[simp] theorem State.setReg_key (s : State) (r : Reg) (v : Byte) : (s.setReg r v).key = s.key := rfl
@[simp] theorem State.setReg_fault (s : State) (r : Reg) (v : Byte) :
    (s.setReg r v).fault =
      s.fault := rfl
@[simp] theorem State.setReg_draws (s : State) (r : Reg) (v : Byte) :
    (s.setReg r v).draws =
      s.draws := rfl

@[simp] theorem State.setI_mem (s : State) (v : Word) : (s.setI v).mem = s.mem := rfl
@[simp] theorem State.setI_V (s : State) (v : Word) : (s.setI v).V = s.V := rfl
@[simp] theorem State.setI_I (s : State) (v : Word) : (s.setI v).I = v := rfl
@[simp] theorem State.setI_pc (s : State) (v : Word) : (s.setI v).pc = s.pc := rfl
@[simp] theorem State.setI_stack (s : State) (v : Word) : (s.setI v).stack = s.stack := rfl
@[simp] theorem State.setI_DT (s : State) (v : Word) : (s.setI v).DT = s.DT := rfl
@[simp] theorem State.setI_ST (s : State) (v : Word) : (s.setI v).ST = s.ST := rfl
@[simp] theorem State.setI_fb (s : State) (v : Word) : (s.setI v).fb = s.fb := rfl
@[simp] theorem State.setI_key (s : State) (v : Word) : (s.setI v).key = s.key := rfl
@[simp] theorem State.setI_fault (s : State) (v : Word) : (s.setI v).fault = s.fault := rfl
@[simp] theorem State.setI_draws (s : State) (v : Word) : (s.setI v).draws = s.draws := rfl

@[simp] theorem State.setPc_mem (s : State) (v : Word) : (s.setPc v).mem = s.mem := rfl
@[simp] theorem State.setPc_V (s : State) (v : Word) : (s.setPc v).V = s.V := rfl
@[simp] theorem State.setPc_I (s : State) (v : Word) : (s.setPc v).I = s.I := rfl
@[simp] theorem State.setPc_pc (s : State) (v : Word) : (s.setPc v).pc = v := rfl
@[simp] theorem State.setPc_stack (s : State) (v : Word) : (s.setPc v).stack = s.stack := rfl
@[simp] theorem State.setPc_DT (s : State) (v : Word) : (s.setPc v).DT = s.DT := rfl
@[simp] theorem State.setPc_ST (s : State) (v : Word) : (s.setPc v).ST = s.ST := rfl
@[simp] theorem State.setPc_fb (s : State) (v : Word) : (s.setPc v).fb = s.fb := rfl
@[simp] theorem State.setPc_key (s : State) (v : Word) : (s.setPc v).key = s.key := rfl
@[simp] theorem State.setPc_fault (s : State) (v : Word) : (s.setPc v).fault = s.fault := rfl
@[simp] theorem State.setPc_draws (s : State) (v : Word) : (s.setPc v).draws = s.draws := rfl

@[simp] theorem State.setDT_mem (s : State) (v : Byte) : (s.setDT v).mem = s.mem := rfl
@[simp] theorem State.setDT_V (s : State) (v : Byte) : (s.setDT v).V = s.V := rfl
@[simp] theorem State.setDT_I (s : State) (v : Byte) : (s.setDT v).I = s.I := rfl
@[simp] theorem State.setDT_pc (s : State) (v : Byte) : (s.setDT v).pc = s.pc := rfl
@[simp] theorem State.setDT_stack (s : State) (v : Byte) : (s.setDT v).stack = s.stack := rfl
@[simp] theorem State.setDT_DT (s : State) (v : Byte) : (s.setDT v).DT = v := rfl
@[simp] theorem State.setDT_ST (s : State) (v : Byte) : (s.setDT v).ST = s.ST := rfl
@[simp] theorem State.setDT_fb (s : State) (v : Byte) : (s.setDT v).fb = s.fb := rfl
@[simp] theorem State.setDT_key (s : State) (v : Byte) : (s.setDT v).key = s.key := rfl
@[simp] theorem State.setDT_fault (s : State) (v : Byte) : (s.setDT v).fault = s.fault := rfl
@[simp] theorem State.setDT_draws (s : State) (v : Byte) : (s.setDT v).draws = s.draws := rfl

@[simp] theorem State.setST_mem (s : State) (v : Byte) : (s.setST v).mem = s.mem := rfl
@[simp] theorem State.setST_V (s : State) (v : Byte) : (s.setST v).V = s.V := rfl
@[simp] theorem State.setST_I (s : State) (v : Byte) : (s.setST v).I = s.I := rfl
@[simp] theorem State.setST_pc (s : State) (v : Byte) : (s.setST v).pc = s.pc := rfl
@[simp] theorem State.setST_stack (s : State) (v : Byte) : (s.setST v).stack = s.stack := rfl
@[simp] theorem State.setST_DT (s : State) (v : Byte) : (s.setST v).DT = s.DT := rfl
@[simp] theorem State.setST_ST (s : State) (v : Byte) : (s.setST v).ST = v := rfl
@[simp] theorem State.setST_fb (s : State) (v : Byte) : (s.setST v).fb = s.fb := rfl
@[simp] theorem State.setST_key (s : State) (v : Byte) : (s.setST v).key = s.key := rfl
@[simp] theorem State.setST_fault (s : State) (v : Byte) : (s.setST v).fault = s.fault := rfl
@[simp] theorem State.setST_draws (s : State) (v : Byte) : (s.setST v).draws = s.draws := rfl

@[simp] theorem State.setFb_mem (s : State) (g : Grid) : (s.setFb g).mem = s.mem := rfl
@[simp] theorem State.setFb_V (s : State) (g : Grid) : (s.setFb g).V = s.V := rfl
@[simp] theorem State.setFb_I (s : State) (g : Grid) : (s.setFb g).I = s.I := rfl
@[simp] theorem State.setFb_pc (s : State) (g : Grid) : (s.setFb g).pc = s.pc := rfl
@[simp] theorem State.setFb_stack (s : State) (g : Grid) : (s.setFb g).stack = s.stack := rfl
@[simp] theorem State.setFb_DT (s : State) (g : Grid) : (s.setFb g).DT = s.DT := rfl
@[simp] theorem State.setFb_ST (s : State) (g : Grid) : (s.setFb g).ST = s.ST := rfl
@[simp] theorem State.setFb_fb (s : State) (g : Grid) : (s.setFb g).fb = g := rfl
@[simp] theorem State.setFb_key (s : State) (g : Grid) : (s.setFb g).key = s.key := rfl
@[simp] theorem State.setFb_fault (s : State) (g : Grid) : (s.setFb g).fault = s.fault := rfl
@[simp] theorem State.setFb_draws (s : State) (g : Grid) : (s.setFb g).draws = s.draws := rfl

@[simp] theorem State.setMem_mem (s : State) (m : Memory) : (s.setMem m).mem = m := rfl
@[simp] theorem State.setMem_V (s : State) (m : Memory) : (s.setMem m).V = s.V := rfl
@[simp] theorem State.setMem_I (s : State) (m : Memory) : (s.setMem m).I = s.I := rfl
@[simp] theorem State.setMem_pc (s : State) (m : Memory) : (s.setMem m).pc = s.pc := rfl
@[simp] theorem State.setMem_stack (s : State) (m : Memory) : (s.setMem m).stack = s.stack := rfl
@[simp] theorem State.setMem_DT (s : State) (m : Memory) : (s.setMem m).DT = s.DT := rfl
@[simp] theorem State.setMem_ST (s : State) (m : Memory) : (s.setMem m).ST = s.ST := rfl
@[simp] theorem State.setMem_fb (s : State) (m : Memory) : (s.setMem m).fb = s.fb := rfl
@[simp] theorem State.setMem_key (s : State) (m : Memory) : (s.setMem m).key = s.key := rfl
@[simp] theorem State.setMem_fault (s : State) (m : Memory) : (s.setMem m).fault = s.fault := rfl
@[simp] theorem State.setMem_draws (s : State) (m : Memory) : (s.setMem m).draws = s.draws := rfl

@[simp] theorem State.enter_mem (s : State) : (s.enter).mem = s.mem := rfl
@[simp] theorem State.enter_V (s : State) : (s.enter).V = s.V := rfl
@[simp] theorem State.enter_I (s : State) : (s.enter).I = s.I := rfl
@[simp] theorem State.enter_pc (s : State) : (s.enter).pc = s.pc + 2 := rfl
@[simp] theorem State.enter_stack (s : State) : (s.enter).stack = s.stack := rfl
@[simp] theorem State.enter_DT (s : State) : (s.enter).DT = tickTimer s.DT := rfl
@[simp] theorem State.enter_ST (s : State) : (s.enter).ST = tickTimer s.ST := rfl
@[simp] theorem State.enter_fb (s : State) : (s.enter).fb = s.fb := rfl
@[simp] theorem State.enter_key (s : State) : (s.enter).key = s.key := rfl
@[simp] theorem State.enter_fault (s : State) : (s.enter).fault = s.fault := rfl
@[simp] theorem State.enter_draws (s : State) : (s.enter).draws = s.draws := rfl

@[simp] theorem State.takeFault_mem (s : State) (f : Fault) (w : Word) :
    (s.takeFault f w).mem =
      s.mem := rfl
@[simp] theorem State.takeFault_V (s : State) (f : Fault) (w : Word) : (s.takeFault f w).V = s.V := rfl
@[simp] theorem State.takeFault_I (s : State) (f : Fault) (w : Word) : (s.takeFault f w).I = s.I := rfl
@[simp] theorem State.takeFault_pc (s : State) (f : Fault) (w : Word) :
    (s.takeFault f w).pc =
      s.pc := rfl
@[simp] theorem State.takeFault_stack (s : State) (f : Fault) (w : Word) :
    (s.takeFault f w).stack =
      s.stack := rfl
@[simp] theorem State.takeFault_DT (s : State) (f : Fault) (w : Word) :
    (s.takeFault f w).DT =
      s.DT := rfl
@[simp] theorem State.takeFault_ST (s : State) (f : Fault) (w : Word) :
    (s.takeFault f w).ST =
      s.ST := rfl
@[simp] theorem State.takeFault_fb (s : State) (f : Fault) (w : Word) :
    (s.takeFault f w).fb =
      s.fb := rfl
@[simp] theorem State.takeFault_key (s : State) (f : Fault) (w : Word) :
    (s.takeFault f w).key =
      s.key := rfl
@[simp] theorem State.takeFault_fault (s : State) (f : Fault) (w : Word) :
    (s.takeFault f w).fault =
      some ⟨f, s.pc, w⟩ := rfl
@[simp] theorem State.takeFault_draws (s : State) (f : Fault) (w : Word) :
    (s.takeFault f w).draws =
      s.draws := rfl

@[simp] theorem State.setRegBlock_mem (s : State) (bs : List Byte) :
    (s.setRegBlock bs).mem =
      s.mem := rfl
@[simp] theorem State.setRegBlock_V (s : State) (bs : List Byte) :
    (s.setRegBlock bs).V =
      loadBlock s.V 0 bs := rfl
@[simp] theorem State.setRegBlock_I (s : State) (bs : List Byte) : (s.setRegBlock bs).I = s.I := rfl
@[simp] theorem State.setRegBlock_pc (s : State) (bs : List Byte) : (s.setRegBlock bs).pc = s.pc := rfl
@[simp] theorem State.setRegBlock_stack (s : State) (bs : List Byte) :
    (s.setRegBlock bs).stack =
      s.stack := rfl
@[simp] theorem State.setRegBlock_DT (s : State) (bs : List Byte) : (s.setRegBlock bs).DT = s.DT := rfl
@[simp] theorem State.setRegBlock_ST (s : State) (bs : List Byte) : (s.setRegBlock bs).ST = s.ST := rfl
@[simp] theorem State.setRegBlock_fb (s : State) (bs : List Byte) : (s.setRegBlock bs).fb = s.fb := rfl
@[simp] theorem State.setRegBlock_key (s : State) (bs : List Byte) :
    (s.setRegBlock bs).key =
      s.key := rfl
@[simp] theorem State.setRegBlock_fault (s : State) (bs : List Byte) :
    (s.setRegBlock bs).fault =
      s.fault := rfl
@[simp] theorem State.setRegBlock_draws (s : State) (bs : List Byte) :
    (s.setRegBlock bs).draws =
      s.draws := rfl

@[simp] theorem State.setRegAndFlag_mem (s : State) (x : Reg) (p : Byte × Bool) :
    (s.setRegAndFlag x p).mem =
      s.mem := rfl
@[simp] theorem State.setRegAndFlag_V (s : State) (x : Reg) (p : Byte × Bool) :
    (s.setRegAndFlag x p).V =
      (s.V.set x.val p.1).set 15 (flagByte p.2) := rfl
@[simp] theorem State.setRegAndFlag_I (s : State) (x : Reg) (p : Byte × Bool) :
    (s.setRegAndFlag x p).I =
      s.I := rfl
@[simp] theorem State.setRegAndFlag_pc (s : State) (x : Reg) (p : Byte × Bool) :
    (s.setRegAndFlag x p).pc =
      s.pc := rfl
@[simp] theorem State.setRegAndFlag_stack (s : State) (x : Reg) (p : Byte × Bool) :
    (s.setRegAndFlag x p).stack =
      s.stack := rfl
@[simp] theorem State.setRegAndFlag_DT (s : State) (x : Reg) (p : Byte × Bool) :
    (s.setRegAndFlag x p).DT =
      s.DT := rfl
@[simp] theorem State.setRegAndFlag_ST (s : State) (x : Reg) (p : Byte × Bool) :
    (s.setRegAndFlag x p).ST =
      s.ST := rfl
@[simp] theorem State.setRegAndFlag_fb (s : State) (x : Reg) (p : Byte × Bool) :
    (s.setRegAndFlag x p).fb =
      s.fb := rfl
@[simp] theorem State.setRegAndFlag_key (s : State) (x : Reg) (p : Byte × Bool) :
    (s.setRegAndFlag x p).key =
      s.key := rfl
@[simp] theorem State.setRegAndFlag_fault (s : State) (x : Reg) (p : Byte × Bool) :
    (s.setRegAndFlag x p).fault =
      s.fault := rfl
@[simp] theorem State.setRegAndFlag_draws (s : State) (x : Reg) (p : Byte × Bool) :
    (s.setRegAndFlag x p).draws =
      s.draws := rfl

@[simp] theorem State.skipIf_mem (s : State) (c : Bool) : (s.skipIf c).mem = s.mem := by cases c <;> rfl
@[simp] theorem State.skipIf_V (s : State) (c : Bool) : (s.skipIf c).V = s.V := by cases c <;> rfl
@[simp] theorem State.skipIf_I (s : State) (c : Bool) : (s.skipIf c).I = s.I := by cases c <;> rfl
@[simp] theorem State.skipIf_pc (s : State) (c : Bool) :
    (s.skipIf c).pc =
      if c then s.pc + 2 else s.pc := by cases c <;> rfl
@[simp] theorem State.skipIf_stack (s : State) (c : Bool) :
    (s.skipIf c).stack =
      s.stack := by cases c <;> rfl
@[simp] theorem State.skipIf_DT (s : State) (c : Bool) : (s.skipIf c).DT = s.DT := by cases c <;> rfl
@[simp] theorem State.skipIf_ST (s : State) (c : Bool) : (s.skipIf c).ST = s.ST := by cases c <;> rfl
@[simp] theorem State.skipIf_fb (s : State) (c : Bool) : (s.skipIf c).fb = s.fb := by cases c <;> rfl
@[simp] theorem State.skipIf_key (s : State) (c : Bool) : (s.skipIf c).key = s.key := by cases c <;> rfl
@[simp] theorem State.skipIf_fault (s : State) (c : Bool) :
    (s.skipIf c).fault =
      s.fault := by cases c <;> rfl
@[simp] theorem State.skipIf_draws (s : State) (c : Bool) :
    (s.skipIf c).draws =
      s.draws := by cases c <;> rfl

@[simp] theorem State.setFlag_mem (s : State) (c : Bool) : (s.setFlag c).mem = s.mem := rfl
@[simp] theorem State.setFlag_V (s : State) (c : Bool) : (s.setFlag c).V = s.V.set 15 (flagByte c) := rfl
@[simp] theorem State.setFlag_I (s : State) (c : Bool) : (s.setFlag c).I = s.I := rfl
@[simp] theorem State.setFlag_pc (s : State) (c : Bool) : (s.setFlag c).pc = s.pc := rfl
@[simp] theorem State.setFlag_stack (s : State) (c : Bool) : (s.setFlag c).stack = s.stack := rfl
@[simp] theorem State.setFlag_DT (s : State) (c : Bool) : (s.setFlag c).DT = s.DT := rfl
@[simp] theorem State.setFlag_ST (s : State) (c : Bool) : (s.setFlag c).ST = s.ST := rfl
@[simp] theorem State.setFlag_fb (s : State) (c : Bool) : (s.setFlag c).fb = s.fb := rfl
@[simp] theorem State.setFlag_key (s : State) (c : Bool) : (s.setFlag c).key = s.key := rfl
@[simp] theorem State.setFlag_fault (s : State) (c : Bool) : (s.setFlag c).fault = s.fault := rfl
@[simp] theorem State.setFlag_draws (s : State) (c : Bool) : (s.setFlag c).draws = s.draws := rfl

@[simp] theorem State.drawRandom_mem (s : State) : (s.drawRandom.2).mem = s.mem := rfl
@[simp] theorem State.drawRandom_V (s : State) : (s.drawRandom.2).V = s.V := rfl
@[simp] theorem State.drawRandom_I (s : State) : (s.drawRandom.2).I = s.I := rfl
@[simp] theorem State.drawRandom_pc (s : State) : (s.drawRandom.2).pc = s.pc := rfl
@[simp] theorem State.drawRandom_stack (s : State) : (s.drawRandom.2).stack = s.stack := rfl
@[simp] theorem State.drawRandom_DT (s : State) : (s.drawRandom.2).DT = s.DT := rfl
@[simp] theorem State.drawRandom_ST (s : State) : (s.drawRandom.2).ST = s.ST := rfl
@[simp] theorem State.drawRandom_fb (s : State) : (s.drawRandom.2).fb = s.fb := rfl
@[simp] theorem State.drawRandom_key (s : State) : (s.drawRandom.2).key = s.key := rfl
@[simp] theorem State.drawRandom_fault (s : State) : (s.drawRandom.2).fault = s.fault := rfl
@[simp] theorem State.drawRandom_draws (s : State) : (s.drawRandom.2).draws = s.draws + 1 := rfl

@[simp] theorem State.blit_mem (s : State) (x y : Reg) (rows : List Byte) :
    (s.blit x y rows).mem =
      s.mem := rfl
@[simp] theorem State.blit_V (s : State) (x y : Reg) (rows : List Byte) :
    (s.blit x y rows).V =
      s.V.set 15 (flagByte (fbBlit (s.startColumn x) (s.startRow y) rows s.fb).2) := rfl
@[simp] theorem State.blit_I (s : State) (x y : Reg) (rows : List Byte) :
    (s.blit x y rows).I =
      s.I := rfl
@[simp] theorem State.blit_pc (s : State) (x y : Reg) (rows : List Byte) :
    (s.blit x y rows).pc =
      s.pc := rfl
@[simp] theorem State.blit_stack (s : State) (x y : Reg) (rows : List Byte) :
    (s.blit x y rows).stack =
      s.stack := rfl
@[simp] theorem State.blit_DT (s : State) (x y : Reg) (rows : List Byte) :
    (s.blit x y rows).DT =
      s.DT := rfl
@[simp] theorem State.blit_ST (s : State) (x y : Reg) (rows : List Byte) :
    (s.blit x y rows).ST =
      s.ST := rfl
@[simp] theorem State.blit_fb (s : State) (x y : Reg) (rows : List Byte) :
    (s.blit x y rows).fb =
      (fbBlit (s.startColumn x) (s.startRow y) rows s.fb).1 := rfl
@[simp] theorem State.blit_key (s : State) (x y : Reg) (rows : List Byte) :
    (s.blit x y rows).key =
      s.key := rfl
@[simp] theorem State.blit_fault (s : State) (x y : Reg) (rows : List Byte) :
    (s.blit x y rows).fault =
      s.fault := rfl
@[simp] theorem State.blit_draws (s : State) (x y : Reg) (rows : List Byte) :
    (s.blit x y rows).draws =
      s.draws := rfl

@[simp] theorem State.keyPress_mem (s : State) (k : Nibble) : (s.keyPress k).mem = s.mem := rfl
@[simp] theorem State.keyPress_V (s : State) (k : Nibble) : (s.keyPress k).V = s.V := rfl
@[simp] theorem State.keyPress_I (s : State) (k : Nibble) : (s.keyPress k).I = s.I := rfl
@[simp] theorem State.keyPress_pc (s : State) (k : Nibble) : (s.keyPress k).pc = s.pc := rfl
@[simp] theorem State.keyPress_stack (s : State) (k : Nibble) : (s.keyPress k).stack = s.stack := rfl
@[simp] theorem State.keyPress_DT (s : State) (k : Nibble) : (s.keyPress k).DT = s.DT := rfl
@[simp] theorem State.keyPress_ST (s : State) (k : Nibble) : (s.keyPress k).ST = s.ST := rfl
@[simp] theorem State.keyPress_fb (s : State) (k : Nibble) : (s.keyPress k).fb = s.fb := rfl
@[simp] theorem State.keyPress_key (s : State) (k : Nibble) : (s.keyPress k).key = some k := rfl
@[simp] theorem State.keyPress_fault (s : State) (k : Nibble) : (s.keyPress k).fault = s.fault := rfl
@[simp] theorem State.keyPress_draws (s : State) (k : Nibble) : (s.keyPress k).draws = s.draws := rfl

@[simp] theorem State.keyRelease_mem (s : State) (k : Nibble) : (s.keyRelease k).mem = s.mem := rfl
@[simp] theorem State.keyRelease_V (s : State) (k : Nibble) : (s.keyRelease k).V = s.V := rfl
@[simp] theorem State.keyRelease_I (s : State) (k : Nibble) : (s.keyRelease k).I = s.I := rfl
@[simp] theorem State.keyRelease_pc (s : State) (k : Nibble) : (s.keyRelease k).pc = s.pc := rfl
@[simp] theorem State.keyRelease_stack (s : State) (k : Nibble) : (s.keyRelease k).stack = s.stack := rfl
@[simp] theorem State.keyRelease_DT (s : State) (k : Nibble) : (s.keyRelease k).DT = s.DT := rfl
@[simp] theorem State.keyRelease_ST (s : State) (k : Nibble) : (s.keyRelease k).ST = s.ST := rfl
@[simp] theorem State.keyRelease_fb (s : State) (k : Nibble) : (s.keyRelease k).fb = s.fb := rfl
@[simp] theorem State.keyRelease_key (s : State) (k : Nibble) : (s.keyRelease k).key = none := rfl
@[simp] theorem State.keyRelease_fault (s : State) (k : Nibble) : (s.keyRelease k).fault = s.fault := rfl
@[simp] theorem State.keyRelease_draws (s : State) (k : Nibble) : (s.keyRelease k).draws = s.draws := rfl

@[simp] theorem State.takeFault_faultPort (s : State) (f : Fault) (w : Word) :
    (s.takeFault f w).faultPort = some (f.code, s.pc, w) := rfl
@[simp] theorem State.takeFault_faultCode (s : State) (f : Fault) (w : Word) :
    (s.takeFault f w).faultCode = f.code := rfl

/-- The two ways a load ends: the image fits and the machine is new, or nothing is created (R310, R312). -/
theorem State.load_cases (image : List Byte) (draws : Nat) :
    (image.length ≤ Config.progMax ∧ State.load image draws = .ok { State.reset with
        mem := Memory.writeBytes State.reset.mem Config.progBase image, draws := draws }) ∨
      (Config.progMax < image.length ∧ State.load image draws = .error .imageTooLong) := by
  rcases Nat.lt_or_ge Config.progMax image.length with h | h
  · exact .inr ⟨h, if_neg (by simpa [imageFits] using h)⟩
  · exact .inl ⟨h, if_pos (by simpa [imageFits] using h)⟩

/-- A load on an existing machine, also a halted one, leaves nothing of it but the count of its draws, or
leaves it as it was (R290, R310, R312, D22). -/
theorem State.reload_cases (s : State) (image : List Byte) :
    (image.length ≤ Config.progMax ∧ s.reload image = { State.reset with
        mem := Memory.writeBytes State.reset.mem Config.progBase image, draws := s.draws }) ∨
      (Config.progMax < image.length ∧ s.reload image = s) := by
  rcases State.load_cases image s.draws with ⟨h, e⟩ | ⟨h, e⟩
  · exact .inl ⟨h, by simp [State.reload, e]⟩
  · exact .inr ⟨h, by simp [State.reload, e]⟩

/-- The machine after reset is the machine a load of the empty image creates (R310, R311). -/
theorem State.load_nil : State.load [] 0 = .ok State.reset := rfl

end Sys2Proof.Machine
end

