-- ==== Sys2Proof/Laws/Ops.lean ====
section
/-! SUPPORT. One lemma per shared operation that says everything it can do. -/

namespace Sys2Proof.Machine

/-! ## Registers -/

theorem State.reg_setReg (s : State) (r k : Reg) (v : Byte) :
    (s.setReg r v).reg k = if k = r then v else s.reg k := by
  simp only [State.reg, State.setReg_V, Vector.getElem_set, Fin.ext_iff]
  simp only [eq_comm]

theorem State.reg_setRegAndFlag (s : State) (x k : Reg) (p : Byte × Bool) :
    (s.setRegAndFlag x p).reg k = if k = 15 then flagByte p.2 else if k = x then p.1 else s.reg k := by
  simp only [State.setRegAndFlag, State.setFlag, State.reg_setReg]

@[simp] theorem State.reg_enter (s : State) (k : Reg) : s.enter.reg k = s.reg k := rfl

@[simp] theorem State.lowNibble_enter (s : State) (x : Reg) : s.enter.lowNibble x = s.lowNibble x := rfl

@[simp] theorem State.effAddr_enter (s : State) (k : Nat) : s.enter.effAddr k = s.effAddr k := rfl

@[simp] theorem State.regBlock_enter (s : State) (x : Reg) : s.enter.regBlock x = s.regBlock x := rfl

theorem State.lowNibble_toNat (s : State) (x : Reg) :
    (s.lowNibble x).toNat = (s.reg x).toNat % 16 := by
  simp [State.lowNibble, BitVec.extractLsb'_toNat]

theorem State.length_regBlock (s : State) (x : Reg) : (s.regBlock x).length = x.val + 1 := by
  have := x.isLt
  simp [State.regBlock]

/-- Byte `k` of the register block is `V[k]` (R205). -/
theorem State.getD_regBlock (s : State) (x k : Reg) (h : k ≤ x) :
    (s.regBlock x).getD k.val 0 = s.reg k := by
  have hk : k.val < x.val + 1 := by
    have : k.val ≤ x.val := h
    omega
  have hl : k.val < s.V.toList.length := by simp
  simp only [State.regBlock, State.reg, List.getD_eq_getElem?_getD, List.getElem?_take, if_pos hk]
  rw [List.getElem?_eq_getElem hl]
  simp

/-- What a register holds after a block of bytes is loaded from register `k` on (R206). -/
theorem getElem_loadBlock (bs : List Byte) (v : Vector Byte 16) (k j : Nat) (hj : j < 16) :
    (loadBlock v k bs)[j] = if k ≤ j ∧ j < k + bs.length then bs.getD (j - k) 0 else v[j] := by
  induction bs generalizing v k with
  | nil =>
    have : ¬ (k ≤ j ∧ j < k + ([] : List Byte).length) := by simp
    simp only [loadBlock, if_neg this]
  | cons b bs ih =>
    simp only [loadBlock, ih, List.length_cons]
    by_cases hin : k + 1 ≤ j ∧ j < k + 1 + bs.length
    · have h2 : k ≤ j ∧ j < k + (bs.length + 1) := by omega
      obtain ⟨d, rfl⟩ : ∃ d, j = k + 1 + d := ⟨j - (k + 1), by omega⟩
      rw [if_pos hin, if_pos h2, show k + 1 + d - (k + 1) = d by omega,
        show k + 1 + d - k = d + 1 by omega, List.getD_cons_succ]
    · rw [if_neg hin, Vector.getElem_setIfInBounds]
      by_cases hk : k = j
      · subst hk
        simp
      · have h2 : ¬ (k ≤ j ∧ j < k + (bs.length + 1)) := by omega
        rw [if_neg hk, if_neg h2]

theorem State.reg_setRegBlock (s : State) (bs : List Byte) (k : Reg) :
    (s.setRegBlock bs).reg k = if k.val < bs.length then bs.getD k.val 0 else s.reg k := by
  simp only [State.reg, State.setRegBlock_V, getElem_loadBlock]
  simp

/-! ## The range-checked accesses (R53) -/

theorem State.memRead_cases (s : State) (addr n : Nat) :
    (0 < n ∧ Config.memSize < addr + n ∧ s.memRead addr n = .error .memoryOutOfRange) ∨
      ((n = 0 ∨ addr + n ≤ Config.memSize) ∧ s.memRead addr n = .ok (s.mem.readBytes addr n)) := by
  simp only [State.memRead]
  split
  · rename_i h
    exact .inl ⟨h.1, h.2, rfl⟩
  · rename_i h
    exact .inr ⟨by omega, rfl⟩

theorem State.memWrite_cases (s : State) (addr : Nat) (bs : List Byte) :
    (0 < bs.length ∧ Config.memSize < addr + bs.length ∧
        s.memWrite addr bs = .error .memoryOutOfRange) ∨
      ((bs.length = 0 ∨ addr + bs.length ≤ Config.memSize) ∧
        s.memWrite addr bs = .ok (s.setMem (s.mem.writeBytes addr bs))) := by
  simp only [State.memWrite]
  split
  · rename_i h
    exact .inl ⟨h.1, h.2, rfl⟩
  · rename_i h
    exact .inr ⟨by omega, rfl⟩

/-- A write inside memory keeps the canonical form, whatever it writes. -/
theorem State.memWrite_keeps_canonical {s t : State} {addr : Nat} {bs : List Byte}
    (h : s.memWrite addr bs = .ok t) (hm : s.mem.wf = true) : t.mem.wf = true := by
  rcases s.memWrite_cases addr bs with ⟨_, _, he⟩ | ⟨hr, he⟩
  · rw [he] at h
    cases h
  · rw [he] at h
    cases h
    rcases hr with h0 | hr
    · rw [List.length_eq_zero_iff] at h0
      subst h0
      exact hm
    · exact Memory.wf_writeBytes hr hm

/-! ## The stack (R25) -/

theorem State.push_cases (s : State) (v : Word) :
    (Config.stackDepth ≤ s.stack.length ∧ s.push v = .error .stackOverflow) ∨
      (s.stack.length < Config.stackDepth ∧ s.push v = .ok { s with stack := v :: s.stack }) := by
  simp only [State.push]
  split
  · exact .inl ⟨by assumption, rfl⟩
  · exact .inr ⟨by omega, rfl⟩

theorem State.pop_cases (s : State) :
    (s.stack = [] ∧ s.pop = .error .stackUnderflow) ∨
      (∃ v rest, s.stack = v :: rest ∧ s.pop = .ok (v, { s with stack := rest })) := by
  simp only [State.pop]
  cases h : s.stack with
  | nil => exact .inl ⟨rfl, rfl⟩
  | cons v rest => exact .inr ⟨v, rest, rfl, rfl⟩

/-! ## The phases of a step (R131 to R134) -/

theorem State.fetch_cases (s : State) :
    (Config.memSize < s.pc.toNat + 2 ∧ s.fetch = .error .fetchOutOfRange) ∨
      (s.pc.toNat + 2 ≤ Config.memSize ∧
        s.fetch = .ok (wordOfBytes (s.mem.read s.pc.toNat) (s.mem.read (s.pc.toNat + 1)))) := by
  simp only [State.fetch]
  split
  · exact .inl ⟨by assumption, rfl⟩
  · exact .inr ⟨by omega, rfl⟩

/-- A timer after one tick, as a number: one less, floored at 0 (R134). -/
theorem tickTimer_toNat (t : Byte) : (tickTimer t).toNat = t.toNat - 1 := by
  have := t.isLt
  unfold tickTimer
  split
  · have h1 : (1 : Byte).toNat = 1 := rfl
    rw [BitVec.toNat_sub, h1]
    omega
  · omega

/-- How a step ends: all is committed, or the fault is taken (R133). -/
theorem State.commit_cases (s : State) (i : Instr) (r : Except Fault State) :
    (∃ t, r = .ok t ∧ s.commit i r = .next t) ∨
      (∃ f, r = .error f ∧ s.commit i r = .next (s.takeFault f (encode i))) := by
  cases r with
  | ok t => exact .inl ⟨t, rfl, rfl⟩
  | error f => exact .inr ⟨f, rfl, rfl⟩

/-! ## Flags (R183) -/

theorem flagByte_toNat (c : Bool) : (flagByte c).toNat = if c then 1 else 0 := by
  cases c <;> rfl

theorem addFlag_toNat (a b : Byte) : (addFlag a b).1.toNat = (a.toNat + b.toNat) % 256 := by
  simp [addFlag]

theorem subFlag_toNat (a b : Byte) :
    (subFlag a b).1.toNat = if b.toNat ≤ a.toNat then a.toNat - b.toNat else a.toNat + 256 - b.toNat := by
  have := a.isLt
  have := b.isLt
  simp only [subFlag, BitVec.toNat_ofNat]
  split <;> omega

end Sys2Proof.Machine
end

