-- ==== Sys2Proof/Laws/PerInstr.lean ====
section
/-! SUPPORT. Statements about every instruction as syntax, one lemma per constructor: the word of an
instruction is of the row of the opcode map that carries the instruction's tag (R85, R92, R112). -/

namespace Sys2Proof

/-! ## A format's word under the masks of the map -/

theorem wordA_family (f : Nibble) (a : Addr) : wordA f a &&& 0xF000 = wordA f 0 := by
  have h : (0xF000 : Word) = BitVec.allOnes 4 ++ 0#12 := rfl
  rw [h, wordA, BitVec.and_append, BitVec.and_allOnes, BitVec.and_zero]
  rfl

theorem wordXI_family (f : Nibble) (x : Reg) (nn : Byte) : wordXI f x nn &&& 0xF000 = wordA f 0 := by
  have h : (0xF000 : Word) = (BitVec.allOnes 4 ++ 0#4 : Byte) ++ 0#8 := rfl
  rw [h, wordXI, BitVec.and_append, BitVec.and_append, BitVec.and_allOnes, BitVec.and_zero,
    BitVec.and_zero]
  revert f
  decide

theorem wordXY_family (f : Nibble) (x y : Reg) (n : Nibble) : wordXY f x y n &&& 0xF000 = wordA f 0 :=
  wordXI_family f x (regBits y ++ n)

theorem wordXI_special (f : Nibble) (x : Reg) (nn : Byte) :
    wordXI f x nn &&& 0xF0FF = wordXI f 0 nn := by
  have h : (0xF0FF : Word) = (BitVec.allOnes 4 ++ 0#4 : Byte) ++ BitVec.allOnes 8 := rfl
  rw [h, wordXI, BitVec.and_append, BitVec.and_append, BitVec.and_allOnes, BitVec.and_zero,
    BitVec.and_allOnes]
  rfl

theorem wordXY_special (f : Nibble) (x y : Reg) (n : Nibble) :
    wordXY f x y n &&& 0xF00F = wordXY f 0 0 n := by
  have h : (0xF00F : Word) = (BitVec.allOnes 4 ++ 0#4 : Byte) ++ (0#4 ++ BitVec.allOnes 4 : Byte) := rfl
  rw [h, wordXY, BitVec.and_append, BitVec.and_append, BitVec.and_append, BitVec.and_allOnes,
    BitVec.and_zero, BitVec.and_zero, BitVec.and_allOnes]
  rfl

/-! ## The family -/

namespace Laws.OpcodeRowOf

/-- The opcode map has a row with the instruction's tag, and the instruction's word is of that row. -/
def Statement (i : Instr) : Prop :=
  ∃ r ∈ opcodeMap, r.tag = tagCode i ∧ r.Matches (encode i)

theorem clearScreen : Statement .clearScreen :=
  ⟨⟨0, 0xFFFF, 0x00E0⟩, by decide, rfl, rfl⟩

theorem ret : Statement .ret :=
  ⟨⟨1, 0xFFFF, 0x00EE⟩, by decide, rfl, rfl⟩

theorem jump (nnn : Addr) : Statement (.jump nnn) :=
  ⟨⟨2, 0xF000, 0x1000⟩, by decide, rfl, wordA_family _ nnn⟩

theorem call (nnn : Addr) : Statement (.call nnn) :=
  ⟨⟨3, 0xF000, 0x2000⟩, by decide, rfl, wordA_family _ nnn⟩

theorem skipEq (x : Reg) (nn : Byte) : Statement (.skipEq x nn) :=
  ⟨⟨4, 0xF000, 0x3000⟩, by decide, rfl, wordXI_family _ x nn⟩

theorem skipNeq (x : Reg) (nn : Byte) : Statement (.skipNeq x nn) :=
  ⟨⟨5, 0xF000, 0x4000⟩, by decide, rfl, wordXI_family _ x nn⟩

theorem skipRegEq (x : Reg) (y : Reg) : Statement (.skipRegEq x y) :=
  ⟨⟨6, 0xF00F, 0x5000⟩, by decide, rfl, wordXY_special _ x y _⟩

theorem set (x : Reg) (nn : Byte) : Statement (.set x nn) :=
  ⟨⟨7, 0xF000, 0x6000⟩, by decide, rfl, wordXI_family _ x nn⟩

theorem addImm (x : Reg) (nn : Byte) : Statement (.addImm x nn) :=
  ⟨⟨8, 0xF000, 0x7000⟩, by decide, rfl, wordXI_family _ x nn⟩

theorem copy (x : Reg) (y : Reg) : Statement (.copy x y) :=
  ⟨⟨9, 0xF00F, 0x8000⟩, by decide, rfl, wordXY_special _ x y _⟩

theorem or (x : Reg) (y : Reg) : Statement (.or x y) :=
  ⟨⟨10, 0xF00F, 0x8001⟩, by decide, rfl, wordXY_special _ x y _⟩

theorem and (x : Reg) (y : Reg) : Statement (.and x y) :=
  ⟨⟨11, 0xF00F, 0x8002⟩, by decide, rfl, wordXY_special _ x y _⟩

theorem xor (x : Reg) (y : Reg) : Statement (.xor x y) :=
  ⟨⟨12, 0xF00F, 0x8003⟩, by decide, rfl, wordXY_special _ x y _⟩

theorem add (x : Reg) (y : Reg) : Statement (.add x y) :=
  ⟨⟨13, 0xF00F, 0x8004⟩, by decide, rfl, wordXY_special _ x y _⟩

theorem sub (x : Reg) (y : Reg) : Statement (.sub x y) :=
  ⟨⟨14, 0xF00F, 0x8005⟩, by decide, rfl, wordXY_special _ x y _⟩

theorem shiftRight (x : Reg) : Statement (.shiftRight x) :=
  ⟨⟨15, 0xF00F, 0x8006⟩, by decide, rfl, wordXY_special _ x 0 _⟩

theorem subn (x : Reg) (y : Reg) : Statement (.subn x y) :=
  ⟨⟨16, 0xF00F, 0x8007⟩, by decide, rfl, wordXY_special _ x y _⟩

theorem shiftLeft (x : Reg) : Statement (.shiftLeft x) :=
  ⟨⟨17, 0xF00F, 0x800E⟩, by decide, rfl, wordXY_special _ x 0 _⟩

theorem skipRegNeq (x : Reg) (y : Reg) : Statement (.skipRegNeq x y) :=
  ⟨⟨18, 0xF00F, 0x9000⟩, by decide, rfl, wordXY_special _ x y _⟩

theorem setI (nnn : Addr) : Statement (.setI nnn) :=
  ⟨⟨19, 0xF000, 0xA000⟩, by decide, rfl, wordA_family _ nnn⟩

theorem jumpWithOffset (nnn : Addr) : Statement (.jumpWithOffset nnn) :=
  ⟨⟨20, 0xF000, 0xB000⟩, by decide, rfl, wordA_family _ nnn⟩

theorem setRandom (x : Reg) (nn : Byte) : Statement (.setRandom x nn) :=
  ⟨⟨21, 0xF000, 0xC000⟩, by decide, rfl, wordXI_family _ x nn⟩

theorem draw (x : Reg) (y : Reg) (n : Nibble) : Statement (.draw x y n) :=
  ⟨⟨22, 0xF000, 0xD000⟩, by decide, rfl, wordXY_family _ x y n⟩

theorem skipKeyPressed (x : Reg) : Statement (.skipKeyPressed x) :=
  ⟨⟨23, 0xF0FF, 0xE09E⟩, by decide, rfl, wordXI_special _ x _⟩

theorem skipKeyNotPressed (x : Reg) : Statement (.skipKeyNotPressed x) :=
  ⟨⟨24, 0xF0FF, 0xE0A1⟩, by decide, rfl, wordXI_special _ x _⟩

theorem getDelay (x : Reg) : Statement (.getDelay x) :=
  ⟨⟨25, 0xF0FF, 0xF007⟩, by decide, rfl, wordXI_special _ x _⟩

theorem getKey (x : Reg) : Statement (.getKey x) :=
  ⟨⟨26, 0xF0FF, 0xF00A⟩, by decide, rfl, wordXI_special _ x _⟩

theorem setDelay (x : Reg) : Statement (.setDelay x) :=
  ⟨⟨27, 0xF0FF, 0xF015⟩, by decide, rfl, wordXI_special _ x _⟩

theorem setSound (x : Reg) : Statement (.setSound x) :=
  ⟨⟨28, 0xF0FF, 0xF018⟩, by decide, rfl, wordXI_special _ x _⟩

theorem addI (x : Reg) : Statement (.addI x) :=
  ⟨⟨29, 0xF0FF, 0xF01E⟩, by decide, rfl, wordXI_special _ x _⟩

theorem fontAddr (x : Reg) : Statement (.fontAddr x) :=
  ⟨⟨30, 0xF0FF, 0xF029⟩, by decide, rfl, wordXI_special _ x _⟩

theorem bcd (x : Reg) : Statement (.bcd x) :=
  ⟨⟨31, 0xF0FF, 0xF033⟩, by decide, rfl, wordXI_special _ x _⟩

theorem storeRegs (x : Reg) : Statement (.storeRegs x) :=
  ⟨⟨32, 0xF0FF, 0xF055⟩, by decide, rfl, wordXI_special _ x _⟩

theorem loadRegs (x : Reg) : Statement (.loadRegs x) :=
  ⟨⟨33, 0xF0FF, 0xF065⟩, by decide, rfl, wordXI_special _ x _⟩

end Laws.OpcodeRowOf

end Sys2Proof
end

