-- ==== Sys2Proof/Laws/Step.lean ====
section
/-! SUPPORT. What one step can do, said once. -/

namespace Sys2Proof.Machine

theorem State.fetchDecode_cases (s : State) :
    (Config.memSize < s.pc.toNat + 2 ∧ s.fetchDecode = .error (.fetchOutOfRange, 0)) ∨
      (s.pc.toNat + 2 ≤ Config.memSize ∧
        ∃ w, w = wordOfBytes (s.mem.read s.pc.toNat) (s.mem.read (s.pc.toNat + 1)) ∧
          ((decode w = none ∧ s.fetchDecode = .error (.decodeFailure, w)) ∨
            ∃ i, decode w = some i ∧ s.fetchDecode = .ok i)) := by
  rcases s.fetch_cases with ⟨h, he⟩ | ⟨h, he⟩
  · exact .inl ⟨h, by simp [State.fetchDecode, he]⟩
  · refine .inr ⟨h, _, rfl, ?_⟩
    cases hd : decode (wordOfBytes (s.mem.read s.pc.toNat) (s.mem.read (s.pc.toNat + 1))) with
    | none => exact .inl ⟨rfl, by simp [State.fetchDecode, he, hd]⟩
    | some i => exact .inr ⟨i, rfl, by simp [State.fetchDecode, he, hd]⟩

/-- The four ways a step goes: the machine is halted, the fetch faults, the decode faults, or the decoded
instruction is executed (R131). -/
theorem step_cases (s : State) :
    (s.fault ≠ none ∧ step s = .next s) ∨
      (s.fault = none ∧ Config.memSize < s.pc.toNat + 2 ∧
        step s = .next (s.takeFault .fetchOutOfRange 0)) ∨
      (s.fault = none ∧ s.pc.toNat + 2 ≤ Config.memSize ∧
        ∃ w, w = wordOfBytes (s.mem.read s.pc.toNat) (s.mem.read (s.pc.toNat + 1)) ∧
          ((decode w = none ∧ step s = .next (s.takeFault .decodeFailure w)) ∨
            ∃ i, decode w = some i ∧ step s = exec i s)) := by
  cases hf : s.fault with
  | some r => exact .inl ⟨by simp, by simp [step, hf]⟩
  | none =>
    rcases s.fetchDecode_cases with ⟨h, he⟩ | ⟨h, w, hw, ⟨hd, he⟩ | ⟨i, hd, he⟩⟩
    · exact .inr (.inl ⟨rfl, h, by simp [step, hf, he]⟩)
    · exact .inr (.inr ⟨rfl, h, w, hw, .inl ⟨hd, by simp [step, hf, he]⟩⟩)
    · exact .inr (.inr ⟨rfl, h, w, hw, .inr ⟨i, hd, by simp [step, hf, he]⟩⟩)

end Sys2Proof.Machine
end

