-- ==== Sys2Proof/Machine/Assembly.lean ====
section
/-! DEFINITION. The textual form of an instruction and the image of a program written down line by line
(R90, R91, D24). It carries no behaviour: nothing of the machine uses this file. -/

namespace Sys2Proof.Machine

/-- One hexadecimal digit. -/
def hexDigit (n : Nat) : String :=
  ["0", "1", "2", "3", "4", "5", "6", "7", "8", "9", "A", "B", "C", "D", "E", "F"].getD (n % 16) ""

/-- A register operand: `V` and one hexadecimal digit (R90). -/
def regText (x : Reg) : String := "V" ++ hexDigit x.val

/-- An operand `NN` in hexadecimal (R90). -/
def byteText (nn : Byte) : String := "0x" ++ hexDigit (nn.toNat / 16) ++ hexDigit nn.toNat

/-- An operand `NNN` in hexadecimal (R90). -/
def addrText (nnn : Addr) : String :=
  "0x" ++ hexDigit (nnn.toNat / 256) ++ hexDigit (nnn.toNat / 16) ++ hexDigit nnn.toNat

/-- An operand `N` in hexadecimal (R90). -/
def nibbleText (n : Nibble) : String := "0x" ++ hexDigit n.toNat

/-- The tag of R85, as the syntax of R90 writes it. -/
def tagText : Instr → String
  | .clearScreen => "clear-screen"
  | .ret => "return"
  | .jump _ => "jump"
  | .call _ => "call"
  | .skipEq _ _ => "skip-eq"
  | .skipNeq _ _ => "skip-neq"
  | .skipRegEq _ _ => "skip-reg-eq"
  | .set _ _ => "set"
  | .addImm _ _ => "add-imm"
  | .copy _ _ => "copy"
  | .or _ _ => "or"
  | .and _ _ => "and"
  | .xor _ _ => "xor"
  | .add _ _ => "add"
  | .sub _ _ => "sub"
  | .shiftRight _ => "shift-right"
  | .subn _ _ => "subn"
  | .shiftLeft _ => "shift-left"
  | .skipRegNeq _ _ => "skip-reg-neq"
  | .setI _ => "set-I"
  | .jumpWithOffset _ => "jump-with-offset"
  | .setRandom _ _ => "set-random"
  | .draw _ _ _ => "draw"
  | .skipKeyPressed _ => "skip-key-pressed"
  | .skipKeyNotPressed _ => "skip-key-not-pressed"
  | .getDelay _ => "get-delay"
  | .getKey _ => "get-key"
  | .setDelay _ => "set-delay"
  | .setSound _ => "set-sound"
  | .addI _ => "add-I"
  | .fontAddr _ => "font-addr"
  | .bcd _ => "bcd"
  | .storeRegs _ => "store-regs"
  | .loadRegs _ => "load-regs"

/-- The operands in the source's order, separated by commas (R90). -/
def operandText : Instr → String
  | .clearScreen | .ret => ""
  | .jump nnn | .call nnn | .setI nnn | .jumpWithOffset nnn => " " ++ addrText nnn
  | .skipEq x nn | .skipNeq x nn | .set x nn | .addImm x nn | .setRandom x nn =>
    " " ++ regText x ++ "," ++ byteText nn
  | .skipRegEq x y | .skipRegNeq x y | .copy x y | .or x y | .and x y | .xor x y | .add x y | .sub x y
  | .subn x y => " " ++ regText x ++ "," ++ regText y
  | .draw x y n => " " ++ regText x ++ "," ++ regText y ++ "," ++ nibbleText n
  | .shiftRight x | .shiftLeft x | .skipKeyPressed x | .skipKeyNotPressed x | .getDelay x | .getKey x
  | .setDelay x | .setSound x | .addI x | .fontAddr x | .bcd x | .storeRegs x | .loadRegs x =>
    " " ++ regText x

/-- The line of an instruction (R90). -/
def lineText (i : Instr) : String := tagText i ++ operandText i

/-- A line that places bytes: an instruction or `.byte` (R90). A label places none. -/
inductive AsmLine where
  | instr (i : Instr)
  | byte (bs : List Byte)
  deriving DecidableEq, Repr

/-- The bytes a line places: exactly one word for an instruction (R91). -/
def AsmLine.image : AsmLine → List Byte
  | .instr i => bytesOfWord (encode i)
  | .byte bs => bs

/-- The image of a program (R90). -/
def assemble (lines : List AsmLine) : List Byte := lines.flatMap AsmLine.image

/-- What a label after these lines stands for: the address of the next instruction (R90). -/
def labelAddress (linesBefore : List AsmLine) : Nat := Config.progBase + (assemble linesBefore).length

end Sys2Proof.Machine
end

