-- ==== Sys2Proof/Tests/Slice0.lean ====
section
/-! SUPPORT. The model's own tests, every expected value from the spec's examples and vectors
(95_test_vectors.md, 30_encoding.md R85 and R93, 40_decoder.md R118), each on one small step; then, for every
statement with hypotheses, a witness that they can be met. -/

open Sys2Proof Sys2Proof.Machine

namespace Sys2Proof.Tests

/-- The next state of an outcome meets `p`. -/
def endsIn (r : Result) (p : State → Bool) : Bool :=
  match r with
  | .next t => p t
  | _ => false

/-- One step from `s` with the word `w` placed at its `pc` ends in a state that meets `p`. -/
def steps (s : State) (w : Nat) (p : State → Bool) : Bool := endsIn (step (s.withFetchWord 16 w)) p

/-- The reset machine with `V0` and `V1`. -/
def two (a b : Byte) : State := (State.reset.setReg 0 a).setReg 1 b

/-- The reset machine with `I`. -/
def indexed (i : Word) : State := State.reset.setI i

/-- The reset machine with `pc`. -/
def atPc (a : Word) : State := State.reset.setPc a

/-! ## Admission checks -/

theorem test_wellFormed : (Instr.draw 15 15 15).wellFormed = true := by decide
theorem test_image_of_3584_fits : imageFits (List.replicate 3584 0) = true := by
  rw [imageFits, List.length_replicate]
  decide
theorem test_image_of_3585_refused : imageFits (List.replicate 3585 0) = false := by
  rw [imageFits, List.length_replicate]
  decide
theorem test_key_15_accepted : keyCode 15 = some 0xF := by decide
theorem test_key_16_refused : keyCode 16 = none := by decide
theorem test_ill_formed_words_refused :
    [0x0000, 0x00E1, 0x00EF, 0x01E0, 0x5AB1, 0x8128, 0x812D, 0x812F, 0x9ABF, 0xE39F, 0xE3A0, 0xF308,
      0xF30B, 0xF316, 0xF319, 0xF31F, 0xF328, 0xF332, 0xF356, 0xF375, 0xFFFF].map (decodeTableWord 16)
      = List.replicate 21 none := by decide
theorem test_one_byte_refused : decodeBytes [0x60] = .error .truncated := by decide
theorem test_rest_returned : decodeBytes [0x60, 0x05, 0x70] = .ok (.set 0 5, [0x70]) := by decide

/-! ## Decoding: a word of every form (R85, R93, R118) -/

theorem test_decode_clearScreen : decodeTableWord 16 0x00E0 = some .clearScreen := by decide
theorem test_decode_ret : decodeTableWord 16 0x00EE = some .ret := by decide
theorem test_decode_jump : decodeTableWord 16 0x10E0 = some (.jump 0x0E0) := by decide
theorem test_decode_call : decodeTableWord 16 0x220A = some (.call 0x20A) := by decide
theorem test_decode_skipEq : decodeTableWord 16 0x3105 = some (.skipEq 1 5) := by decide
theorem test_decode_skipNeq : decodeTableWord 16 0x4105 = some (.skipNeq 1 5) := by decide
theorem test_decode_skipRegEq : decodeTableWord 16 0x5AB0 = some (.skipRegEq 10 11) := by decide
theorem test_decode_set : decodeTableWord 16 0x6005 = some (.set 0 5) := by decide
theorem test_decode_addImm : decodeTableWord 16 0x7003 = some (.addImm 0 3) := by decide
theorem test_decode_copy : decodeTableWord 16 0x8120 = some (.copy 1 2) := by decide
theorem test_decode_or : decodeTableWord 16 0x8121 = some (.or 1 2) := by decide
theorem test_decode_and : decodeTableWord 16 0x8122 = some (.and 1 2) := by decide
theorem test_decode_xor : decodeTableWord 16 0x8123 = some (.xor 1 2) := by decide
theorem test_decode_add : decodeTableWord 16 0x8AB4 = some (.add 10 11) := by decide
theorem test_decode_sub : decodeTableWord 16 0x8015 = some (.sub 0 1) := by decide
theorem test_decode_shiftRight : decodeTableWord 16 0x8FF6 = some (.shiftRight 15) := by decide
theorem test_decode_subn : decodeTableWord 16 0x8127 = some (.subn 1 2) := by decide
theorem test_decode_shiftLeft : decodeTableWord 16 0x812E = some (.shiftLeft 1) := by decide
theorem test_decode_skipRegNeq : decodeTableWord 16 0x9AB0 = some (.skipRegNeq 10 11) := by decide
theorem test_decode_setI : decodeTableWord 16 0xA300 = some (.setI 0x300) := by decide
theorem test_decode_jumpWithOffset : decodeTableWord 16 0xBFFF = some (.jumpWithOffset 0xFFF) := by decide
theorem test_decode_setRandom : decodeTableWord 16 0xC10F = some (.setRandom 1 0x0F) := by decide
theorem test_decode_draw : decodeTableWord 16 0xD125 = some (.draw 1 2 5) := by decide
theorem test_decode_skipKeyPressed : decodeTableWord 16 0xE39E = some (.skipKeyPressed 3) := by decide
theorem test_decode_skipKeyNotPressed : decodeTableWord 16 0xE3A1 = some (.skipKeyNotPressed 3) := by
  decide
theorem test_decode_getDelay : decodeTableWord 16 0xF307 = some (.getDelay 3) := by decide
theorem test_decode_getKey : decodeTableWord 16 0xF30A = some (.getKey 3) := by decide
theorem test_decode_setDelay : decodeTableWord 16 0xF315 = some (.setDelay 3) := by decide
theorem test_decode_setSound : decodeTableWord 16 0xF318 = some (.setSound 3) := by decide
theorem test_decode_addI : decodeTableWord 16 0xF31E = some (.addI 3) := by decide
theorem test_decode_fontAddr : decodeTableWord 16 0xF329 = some (.fontAddr 3) := by decide
theorem test_decode_bcd : decodeTableWord 16 0xF333 = some (.bcd 3) := by decide
theorem test_decode_storeRegs : decodeTableWord 16 0xF355 = some (.storeRegs 3) := by decide
theorem test_decode_loadRegs : decodeTableWord 16 0xF265 = some (.loadRegs 2) := by decide

/-! ## Assembly text (R90, program P3) -/

theorem test_line_text : lineText (.draw 1 2 5) = "draw V1,V2,0x5" ∧ lineText .ret = "return" ∧
    lineText (.set 10 0x3E) = "set VA,0x3E" := by decide
/-- The first three lines of program P3 and the address of the fourth. -/
theorem test_assemble :
    assemble [.instr (.set 0 0x0A), .instr (.fontAddr 0), .instr (.set 1 62)]
      = [0x60, 0x0A, 0xF0, 0x29, 0x61, 0x3E] ∧
    labelAddress [.instr (.set 0 0x0A), .instr (.fontAddr 0), .instr (.set 1 62)] = 0x206 := by decide

/-! ## Control transfer (vectors V-C) -/

/-- V-C5, step 2. -/
theorem test_return : steps { State.reset with stack := [0x202], pc := 0x204 } 0x00EE
    (fun t => t.pc == 0x202 && t.stack == []) = true := by decide
/-- V-C7. -/
theorem test_return_underflows : steps State.reset 0x00EE
    (fun t => t.faultPort == some (2, 0x0200, 0x00EE) && t.pc == 0x200) = true := by decide
/-- V-C3. -/
theorem test_jump : steps State.reset 0x1FFF (fun t => t.pc == 0xFFF) = true := by decide
/-- V-C5, step 1. -/
theorem test_call : steps State.reset 0x2204 (fun t => t.pc == 0x204 && t.stack == [0x202]) = true := by
  decide
/-- V-C6, step 17. -/
theorem test_call_overflows : steps { State.reset with stack := List.replicate 16 0x202 } 0x2200
    (fun t => t.faultPort == some (3, 0x0200, 0x2200) && t.stack.length == 16) = true := by decide
/-- V-C9: the sum is not reduced to 12 bits. -/
theorem test_jump_with_offset : steps (two 0xFF 0) 0xBFFF (fun t => t.pc == 0x10FE) = true := by decide
/-- V-C11. -/
theorem test_skip_eq_skips : steps (two 0 5) 0x3105 (fun t => t.pc == 0x204) = true := by decide
/-- V-C12. -/
theorem test_skip_eq_passes : steps (two 0 6) 0x3105 (fun t => t.pc == 0x202) = true := by decide
/-- V-C13. -/
theorem test_skip_neq_passes : steps (two 0 5) 0x4105 (fun t => t.pc == 0x202) = true := by decide
/-- V-C14. -/
theorem test_skip_neq_skips : steps (two 0 6) 0x4105 (fun t => t.pc == 0x204) = true := by decide
/-- V-C16, with the registers V1 and V2. -/
theorem test_skip_reg_eq_passes : steps ((two 0 7).setReg 2 8) 0x5120 (fun t => t.pc == 0x202) = true := by
  decide
/-- V-C17. -/
theorem test_skip_reg_eq_same : steps (two 0 7) 0x5110 (fun t => t.pc == 0x204) = true := by decide
/-- V-C18. -/
theorem test_skip_reg_neq_skips : steps ((two 0 7).setReg 2 8) 0x9120 (fun t => t.pc == 0x204) = true := by
  decide
/-- V-C19. -/
theorem test_skip_reg_neq_passes : steps ((two 0 7).setReg 2 7) 0x9120 (fun t => t.pc == 0x202) = true := by
  decide

/-! ## Registers and arithmetic (vectors V-A) -/

/-- V-A1. -/
theorem test_set : steps State.reset 0x6AFF (fun t => t.reg 10 == 0xFF) = true := by decide
/-- V-A3: no carry flag. -/
theorem test_add_imm_wraps : steps (two 0xFF 0) 0x7001 (fun t => t.reg 0 == 0 && t.reg 15 == 0) = true := by
  decide
/-- V-A5. -/
theorem test_copy : steps (State.reset.setReg 2 0x3C) 0x8120
    (fun t => t.reg 1 == 0x3C && t.reg 2 == 0x3C) = true := by decide
/-- V-A6. -/
theorem test_or : steps (((two 0 0xF0).setReg 2 0x0F).setReg 15 1) 0x8121
    (fun t => t.reg 1 == 0xFF && t.reg 15 == 1) = true := by decide
/-- V-A7. -/
theorem test_and : steps (((two 0 0xF0).setReg 2 0x3C).setReg 15 1) 0x8122
    (fun t => t.reg 1 == 0x30 && t.reg 15 == 1) = true := by decide
/-- V-A8. -/
theorem test_xor : steps (((two 0 0xF0).setReg 2 0x3C).setReg 15 1) 0x8123
    (fun t => t.reg 1 == 0xCC && t.reg 15 == 1) = true := by decide
/-- V-A10. -/
theorem test_add : steps (two 0xC8 0x64) 0x8014 (fun t => t.reg 0 == 0x2C && t.reg 15 == 1) = true := by
  decide
/-- V-A15: the flag is what stays. -/
theorem test_add_vf : steps ((two 0 0x20).setReg 15 0xF0) 0x8F14
    (fun t => t.reg 15 == 1 && t.reg 1 == 0x20) = true := by decide
/-- V-A17. -/
theorem test_sub_borrows : steps (two 5 7) 0x8015 (fun t => t.reg 0 == 0xFE && t.reg 15 == 0) = true := by
  decide
/-- V-A19: equal operands leave the flag at 1. -/
theorem test_sub_equal : steps (two 7 7) 0x8015 (fun t => t.reg 0 == 0 && t.reg 15 == 1) = true := by decide
/-- V-A22. -/
theorem test_subn : steps (two 5 7) 0x8017 (fun t => t.reg 0 == 2 && t.reg 15 == 1) = true := by decide
/-- V-A23. -/
theorem test_subn_borrows : steps (two 7 5) 0x8017 (fun t => t.reg 0 == 0xFE && t.reg 15 == 0) = true := by
  decide
/-- V-A29: `Y` is ignored. -/
theorem test_shift_right : steps ((two 0 3).setReg 2 0xAA) 0x8126
    (fun t => t.reg 1 == 1 && t.reg 2 == 0xAA && t.reg 15 == 1) = true := by decide
/-- V-A30. -/
theorem test_shift_right_vf : steps (State.reset.setReg 15 3) 0x8F06 (fun t => t.reg 15 == 1) = true := by
  decide
/-- V-A31. -/
theorem test_shift_left : steps (two 0 0xC1) 0x810E (fun t => t.reg 1 == 0x82 && t.reg 15 == 1) = true := by
  decide
/-- V-A32. -/
theorem test_shift_left_no_carry : steps (two 0 0x7F) 0x810E
    (fun t => t.reg 1 == 0xFE && t.reg 15 == 0) = true := by decide
/-- V-A36, whatever the byte drawn is. -/
theorem test_set_random_masked : endsIn (step ((two 0 9).withFetchWord 16 0xC100))
    (fun t => t.reg 1 == 0 && t.draws == 1) = true := by
  have h : step ((two 0 9).withFetchWord 16 0xC100) =
      .next ((((two 0 9).withFetchWord 16 0xC100).enter.drawRandom.2).setReg 1
        (Config.randomByte 0 &&& 0#8)) := rfl
  rw [h, BitVec.and_zero]
  decide

/-! ## Index register and memory (vectors V-M) -/

/-- V-M2. -/
theorem test_set_index : steps State.reset 0xAFFF (fun t => t.I == 0x0FFF) = true := by decide
/-- V-M3: no flag above 0xFFF. -/
theorem test_add_index : steps ((indexed 0x0FFE).setReg 3 5) 0xF31E
    (fun t => t.I == 0x1003 && t.reg 15 == 0) = true := by decide
/-- V-M4. -/
theorem test_add_index_wraps : steps ((indexed 0xFFFF).setReg 0 2) 0xF01E (fun t => t.I == 1) = true := by
  decide
/-- V-M6. -/
theorem test_font_addr : steps (two 0x1A 0) 0xF029 (fun t => t.I == 0x0082) = true := by decide
/-- V-M9. -/
theorem test_bcd : steps ((indexed 0x300).setReg 0 254) 0xF033
    (fun t => t.mem.readBytes 0x300 3 == [2, 5, 4]) = true := by decide
/-- V-M16, here at 0x200. -/
theorem test_bcd_faults : steps (indexed 0xFFE) 0xF033
    (fun t => t.faultPort == some (4, 0x0200, 0xF033) && t.pc == 0x200
      && t.mem.readBytes 0xFFE 2 == [0, 0]) = true := by decide
/-- V-M17. -/
theorem test_store_regs : steps ((((two 1 2).setReg 2 3).setReg 3 4).setI 0x400) 0xF255
    (fun t => t.mem.readBytes 0x400 4 == [1, 2, 3, 0] && t.I == 0x400) = true := by decide
/-- V-M18: the last byte of memory. -/
theorem test_store_regs_at_the_top : steps ((two 0xAB 0).setI 0xFFF) 0xF055
    (fun t => t.mem.read 0xFFF == 0xAB && t.fault == none) = true := by decide
/-- V-M22: the font table. -/
theorem test_load_regs : steps (indexed 0x050) 0xFF65
    (fun t => t.V.toList == [0xF0, 0x90, 0x90, 0x90, 0xF0, 0x20, 0x60, 0x20, 0x20, 0x70, 0xF0, 0x10, 0xF0,
      0x80, 0xF0, 0xF0]) = true := by decide
/-- V-M23. -/
theorem test_load_regs_faults : steps ((two 1 2).setI 0xFFF) 0xF165
    (fun t => t.faultPort == some (4, 0x0200, 0xF165) && t.reg 0 == 1 && t.reg 1 == 2) = true := by decide

/-! ## Display (vectors V-D) -/

/-- V-D1. -/
theorem test_clear_screen : steps (State.reset.setFb (State.reset.fb.flip 5 5)) 0x00E0
    (fun t => !t.fb.cell 5 5) = true := by decide
/-- V-D4: glyph A at the corner, clipped on both sides. -/
theorem test_draw_clips : steps (((two 0 62).setReg 2 30).setI 0x082) 0xD125
    (fun t => t.fb.cell 62 30 && t.fb.cell 63 30 && t.fb.cell 62 31 && !t.fb.cell 63 31
      && !t.fb.cell 0 30 && t.reg 15 == 0) = true := by decide
/-- V-D5, with the cell (62,30) lit before. -/
theorem test_draw_collides :
    steps ((((two 0 62).setReg 2 30).setI 0x082).setFb (State.reset.fb.flip 62 30)) 0xD125
    (fun t => !t.fb.cell 62 30 && t.fb.cell 63 30 && t.reg 15 == 1) = true := by decide

/-! ## Timers and keys (vectors V-T and V-K) -/

/-- V-T2. -/
theorem test_get_delay : steps (State.reset.setDT 0x2A) 0xF207
    (fun t => t.reg 2 == 0x29 && t.DT == 0x29) = true := by decide
/-- V-T1, step 1. -/
theorem test_set_delay : steps (two 3 0) 0xF015 (fun t => t.DT == 3) = true := by decide
/-- V-T4, step 1. -/
theorem test_set_sound : steps (two 0 2) 0xF118 (fun t => t.ST == 2 && t.soundActive) = true := by decide
/-- V-T3, step 1 from `DT = 0`: never 255. -/
theorem test_timer_stops_at_zero : steps State.reset 0x1200 (fun t => t.DT == 0 && t.ST == 0) = true := by
  decide
/-- V-K4: the low nibble only. -/
theorem test_skip_key_pressed : steps ((two 0x17 0).keyPress 7) 0xE09E (fun t => t.pc == 0x204) = true := by
  decide
/-- V-K6. -/
theorem test_skip_key_pressed_empty : steps State.reset 0xE09E (fun t => t.pc == 0x202) = true := by decide
/-- V-K7. -/
theorem test_skip_key_not_pressed_empty : steps State.reset 0xE0A1 (fun t => t.pc == 0x204) = true := by
  decide
/-- V-K8. -/
theorem test_skip_key_not_pressed : steps ((two 7 0).keyPress 7) 0xE0A1 (fun t => t.pc == 0x202) = true := by
  decide
/-- V-K10, step 1. -/
theorem test_get_key_rewinds : steps (State.reset.setDT 5) 0xF10A
    (fun t => t.pc == 0x200 && t.reg 1 == 0 && t.DT == 4) = true := by decide
/-- V-K11. -/
theorem test_get_key : steps (State.reset.keyPress 0xF) 0xF10A
    (fun t => t.pc == 0x202 && t.reg 1 == 0xF && t.key == some 0xF) = true := by decide
/-- V-K2. -/
theorem test_release_of_another_key :
    ((State.reset.hostMove (.keyPress 3)).hostMove (.keyRelease 9)).key = none := by decide

/-- R256: a release on an empty latch. -/
theorem test_release_on_an_empty_latch : (State.reset.hostMove (.keyRelease 9)).key = none := by decide

/-! ## Step, faults and load (vectors V-F) -/

/-- V-F1. -/
theorem test_decode_failure : endsIn (step State.reset)
    (fun t => t.faultPort == some (1, 0x0200, 0x0000) && t.pc == 0x200) = true := by decide
/-- V-C9, the next step. -/
theorem test_fetch_out_of_range : endsIn (step (atPc 0x10FE))
    (fun t => t.faultPort == some (5, 0x10FE, 0)) = true := by decide
/-- V-F3, step 3: the faulting step does not tick; the code is 0 before and 1 after. -/
theorem test_faulting_step_does_not_tick : State.reset.faultCode = 0 ∧
    steps ((State.reset.setDT 5).setPc 0x204) 0xFFFF (fun t => t.DT == 5 && t.faultCode == 1) = true := by
  decide
/-- V-F7: an odd address. -/
theorem test_odd_pc : steps (atPc 0x203) 0x602A (fun t => t.reg 0 == 0x2A && t.pc == 0x205) = true := by decide
/-- V-F4 in small: the image from 0x200, big-endian. -/
theorem test_load_and_step :
    endsIn (step (State.reset.hostMove (.load [0x12, 0x04]))) (fun t => t.pc == 0x204) = true := by decide
/-- R290, R310: a load on a halted machine is the way out of a fault. -/
theorem test_load_clears_a_fault :
    ((State.reset.takeFault .decodeFailure 0).hostMove (.load [0x12, 0x04])).faultCode = 0 ∧
    endsIn (step ((State.reset.takeFault .decodeFailure 0).hostMove (.load [0x12, 0x04])))
      (fun t => t.pc == 0x204) = true := by decide
/-- R203, R52: the glyph of F ends the table at 0x09F. -/
theorem test_font_table : Config.font.length = 80 ∧ State.reset.mem.read 0x09B = 0xF0 ∧
    State.reset.mem.read 0x09F = 0x80 ∧ State.reset.mem.read 0x0A0 = 0 ∧ State.reset.mem.read 0x04F = 0 := by
  decide

/-! ## Witnesses: the hypotheses of the statements can be met, each clause at a boundary -/

/-- The machine with the word at its `pc`. -/
def placed (s : State) (w : Nat) : State := s.withFetchWord 16 w

theorem test_witness_EncodeOfDecode :
    decode 0x81F6 = some (.shiftRight 1) ∧ decode 0xFFFF = none ∧ decode 0xFF65 = some (.loadRegs 15) := by
  decide
theorem test_witness_DecoderIsTheOpcodeMap :
    (∃ i, decode 0x812E = some i) ∧ ∃ r ∈ opcodeMap, r.Matches 0x812E :=
  ⟨⟨_, rfl⟩, ⟨17, 0xF00F, 0x800E⟩, by decide, by decide⟩
theorem test_witness_StepRuns : (placed (atPc 0xFFE) 0x00E0).fault = none ∧
    (placed (atPc 0xFFE) 0x00E0).pc.toNat ≤ 0xFFE ∧
    decode (placed (atPc 0xFFE) 0x00E0).wordAtPc = some .clearScreen := by decide
theorem test_witness_FetchFault : (atPc 0xFFF).fault = none ∧ 0xFFE < (atPc 0xFFF).pc.toNat := by decide
theorem test_witness_DecodeFault : (atPc 0xFFE).fault = none ∧ (atPc 0xFFE).pc.toNat ≤ 0xFFE ∧
    decode (atPc 0xFFE).wordAtPc = none := by decide
theorem test_witness_Halted : (State.reset.takeFault .decodeFailure 0).fault ≠ none := by decide
theorem test_witness_FaultingStep : State.reset.fault = none ∧
    (∃ t, step State.reset = .next t ∧ t.fault ≠ none) ∧
    ∃ t, step (placed State.reset 0x00E0) = .next t ∧ t.fault = none :=
  ⟨rfl, ⟨_, rfl, by decide⟩, _, rfl, rfl⟩
theorem test_witness_TimersTick : ∃ t, step (placed State.reset 0x00E0) = .next t ∧ t.fault = none ∧
    (∀ x, decode (placed State.reset 0x00E0).wordAtPc ≠ some (.setDelay x)) ∧
    ∀ x, decode (placed State.reset 0x00E0).wordAtPc ≠ some (.setSound x) := by
  have h : decode (placed State.reset 0x00E0).wordAtPc = some .clearScreen := by decide
  exact ⟨_, rfl, rfl, by simp [h], by simp [h]⟩
theorem test_witness_TimersTick_halted :
    (State.reset.takeFault .decodeFailure 0).fault ≠ none ∧
      step (State.reset.takeFault .decodeFailure 0) = .next (State.reset.takeFault .decodeFailure 0) :=
  ⟨by decide, rfl⟩
theorem test_witness_ReturnPops :
    { State.reset with stack := [0x1000, 0x202] }.stack = 0x1000 :: [0x202] := rfl
theorem test_witness_Call : { State.reset with stack := List.replicate 15 0x202 }.stack.length < 16 := by
  decide
theorem test_witness_StackFaults : State.reset.stack = [] ∧
    { State.reset with stack := List.replicate 16 0x202 }.stack.length = 16 := by decide
theorem test_witness_ReturnUndoesCall :
    State.reset.fault = none ∧ ∃ t, exec (.call 0x204) State.reset = .next t ∧ t.fault = none :=
  ⟨rfl, _, rfl, rfl⟩
theorem test_witness_JumpToItself : (placed (atPc 0xFFE) 0x1FFE).fault = none ∧
    (placed (atPc 0xFFE) 0x1FFE).pc.toNat = (0xFFE : Addr).toNat ∧ (0xFFE : Addr).toNat ≤ 0xFFE ∧
    decode (placed (atPc 0xFFE) 0x1FFE).wordAtPc = some (.jump 0xFFE) := by decide
theorem test_witness_result_register_not_VF : (14 : Reg) ≠ 15 ∧ (0 : Reg) ≠ 15 := by decide
theorem test_witness_SetRandom_mask_bit : (0x80 : Byte).getLsbD 7 = true := by decide
theorem test_witness_FlagWriters : State.reset.fault = none ∧
    (∃ t, exec (.add 15 15) State.reset = .next t ∧ t.fault = none) ∧
    (∃ t, exec (.sub 0 1) State.reset = .next t ∧ t.fault = none) ∧
    (∃ t, exec (.subn 0 1) State.reset = .next t ∧ t.fault = none) ∧
    (∃ t, exec (.shiftRight 15) State.reset = .next t ∧ t.fault = none) ∧
    (∃ t, exec (.shiftLeft 15) State.reset = .next t ∧ t.fault = none) ∧
    ∃ t, exec (.draw 0 0 15) State.reset = .next t ∧ t.fault = none :=
  ⟨rfl, ⟨_, rfl, rfl⟩, ⟨_, rfl, rfl⟩, ⟨_, rfl, rfl⟩, ⟨_, rfl, rfl⟩, ⟨_, rfl, rfl⟩, _, rfl, rfl⟩
theorem test_witness_OnlyFlagWriters :
    (∃ t, exec (.sub 0 1) State.reset = .next t ∧ t.reg 15 ≠ State.reset.reg 15) ∧
    (∃ t, exec (.set 15 7) State.reset = .next t ∧ t.reg 15 ≠ State.reset.reg 15) ∧
    ∃ t, exec (.loadRegs 15) (indexed 0x050) = .next t ∧ t.reg 15 ≠ (indexed 0x050).reg 15 :=
  ⟨⟨_, rfl, by decide⟩, ⟨_, rfl, by decide⟩, _, rfl, by decide⟩
theorem test_witness_Bcd : (indexed 0xFFD).I.toNat + 3 ≤ 4096 := by decide
theorem test_witness_block_of_16 : (indexed 0xFF0).I.toNat + (15 : Reg).val + 1 ≤ 4096 := by decide
theorem test_witness_block_of_1 : (indexed 0xFFF).I.toNat + (0 : Reg).val + 1 ≤ 4096 := by decide
theorem test_witness_AccessBeyondMemory :
    (0 < accessLength (.bcd 0) ∧ 4096 < (indexed 0xFFE).I.toNat + accessLength (.bcd 0)) ∧
    (0 < accessLength (.storeRegs 1) ∧ 4096 < (indexed 0xFFF).I.toNat + accessLength (.storeRegs 1)) ∧
    (0 < accessLength (.loadRegs 15) ∧ 4096 < (indexed 0xFF1).I.toNat + accessLength (.loadRegs 15)) ∧
    (0 < accessLength (.draw 0 0 1) ∧ 4096 < (indexed 0x1000).I.toNat + accessLength (.draw 0 0 1)) := by
  decide
theorem test_witness_LoadUndoesStore : ∃ t u, exec (.storeRegs 0) (indexed 0xFFF) = .next t ∧
    t.fault = none ∧ exec (.loadRegs 0) t = .next u := ⟨_, _, rfl, rfl, rfl⟩
theorem test_witness_Draw_of_none : (0 : Nibble) = 0 ∨ (indexed 0xFFFF).I.toNat + (0 : Nibble).toNat ≤ 4096 := by
  decide
theorem test_witness_Draw_at_the_top : (indexed 0xFF1).I.toNat + (15 : Nibble).toNat ≤ 4096 := by decide
theorem test_witness_Draw_corner_cell : 63 < 64 ∧ 31 < 32 ∧ spriteCovers 63 31 [0x80] 63 31 = true := by decide
theorem test_witness_SetDelayThenGet :
    ∃ t u, exec (.setDelay 0) (two 0 0) = .next t ∧ exec (.getDelay 1) t = .next u := ⟨_, _, rfl, rfl⟩
theorem test_witness_GetKey : (State.reset.keyPress 0xF).key = some 0xF ∧ State.reset.key = none := by decide
theorem test_witness_LoadPlaces : ([0x12, 0x00] : List Byte).length ≤ 3584 ∧ 1 < ([0x12, 0x00] : List Byte).length
    ∧ (0x1FF < 0x200 ∨ 0x200 + ([0x12, 0x00] : List Byte).length ≤ 0x1FF)
    ∧ (0x202 < 0x200 ∨ 0x200 + ([0x12, 0x00] : List Byte).length ≤ 0x202) := by decide
theorem test_witness_LoadPlaces_longest : (List.replicate 3584 (0 : Byte)).length ≤ 3584 :=
  List.length_replicate.le
theorem test_witness_LoadOfALong : 3584 < (List.replicate 3585 (0 : Byte)).length := by
  rw [List.length_replicate]
  decide
theorem test_witness_MemoryCanonical : (placed (indexed 0x300) 0xF055).MemoryCanonical ∧
    ∃ t, step (placed (indexed 0x300) 0xF055) = .next t := ⟨by decide, _, rfl⟩
theorem test_witness_ControlBounded :
    { placed State.reset 0x2200 with stack := List.replicate 15 0x1000 }.ControlBounded ∧
    ∃ t, step { placed State.reset 0x2200 with stack := List.replicate 15 0x1000 } = .next t := by
  refine ⟨⟨by decide, by decide, ?_⟩, _, rfl⟩
  simp
theorem test_witness_LatchTruthful : (State.reset.takeFault .decodeFailure 0).LatchTruthful ∧
    ∃ t, step (State.reset.takeFault .decodeFailure 0) = .next t := by
  refine ⟨?_, _, rfl⟩
  intro r hr
  cases hr
  exact ⟨rfl, by decide, by decide, by decide⟩
theorem test_witness_Reachable :
    Reachable State.reset ∧ ∃ t, step State.reset = .next t ∧ Reachable t :=
  have h : Reachable State.reset := .loaded (image := []) (draws := 0) rfl
  ⟨h, _, rfl, .step h rfl⟩
theorem test_witness_Matrix : State.reset.fault = none ∧
    (∃ t, exec .clearScreen State.reset = .next t ∧ t.fault = none) ∧
    ∃ t, exec .ret State.reset = .next t ∧ t.fault ≠ none := ⟨rfl, ⟨_, rfl, rfl⟩, _, rfl, by decide⟩
theorem test_witness_FaultPort : State.reset.fault = none ∧
    (State.reset.takeFault .decodeFailure 0).fault = some ⟨.decodeFailure, 0x200, 0⟩ ∧
    (State.reset.takeFault .fetchOutOfRange 0).fault = some ⟨.fetchOutOfRange, 0x200, 0⟩ := by decide
theorem test_witness_SoundTimer : ∃ t, step (placed State.reset 0xF018) = .next t := ⟨_, rfl⟩

end Sys2Proof.Tests
end

section
/-! # State family: the machine's state under one instruction, one step and one run

The equations of the instructions that can fault or wait, the frame every completed instruction keeps, and
from both the two ways an instruction ends (`exec_cases`). The statements about the state rest on it. -/

namespace Sys2Proof

/-! ## A word put together again from its fields (R82, R83, R92) -/

theorem wordA_of_fields {w : Word} {f : Nibble} (hf : (famOf w).toNat = f.toNat) :
    wordA f (nnnOf w) = w := by
  apply BitVec.eq_of_toNat_eq
  rw [famOf_toNat] at hf
  rw [wordA_toNat, nnnOf_toNat]
  omega

theorem wordXI_of_fields {w : Word} {f : Nibble} {nn : Byte} (hf : (famOf w).toNat = f.toNat)
    (hnn : (nnOf w).toNat = nn.toNat) : wordXI f (xOf w) nn = w := by
  apply BitVec.eq_of_toNat_eq
  rw [famOf_toNat] at hf
  rw [nnOf_toNat] at hnn
  rw [wordXI_toNat, xOf_val]
  omega

theorem wordXY_of_fields {w : Word} {f n : Nibble} (hf : (famOf w).toNat = f.toNat)
    (hn : (nOf w).toNat = n.toNat) : wordXY f (xOf w) (yOf w) n = w := by
  apply BitVec.eq_of_toNat_eq
  rw [famOf_toNat] at hf
  rw [nOf_toNat] at hn
  rw [wordXY_toNat, xOf_val, yOf_val]
  omega

/-- The two forms whose `Y` field the decoder drops (R87). -/
def isShift : Instr → Bool
  | .shiftRight _ | .shiftLeft _ => true
  | _ => false

theorem encode_of_decode0 {w : Word} {i : Instr} (h : decode0 w = some i) : encode i = w := by
  unfold decode0 at h
  split at h
  · next hw => cases h; exact hw.symm
  · split at h
    · next hw => cases h; exact hw.symm
    · cases h

theorem encode_of_decode8 {w : Word} {i : Instr} (hf : (famOf w).toNat = 8) (h : decode8 w = some i)
    (hs : isShift i = false) : encode i = w := by
  unfold decode8 at h
  split at h
  case h_7 | h_9 => cases h; cases hs
  case h_10 => cases h
  all_goals
    next hn => cases h; exact wordXY_of_fields hf hn

theorem encode_of_decodeE {w : Word} {i : Instr} (hf : (famOf w).toNat = 14)
    (h : decodeE w = some i) : encode i = w := by
  unfold decodeE at h
  split at h
  case h_3 => cases h
  all_goals
    next hnn => cases h; exact wordXI_of_fields hf hnn

theorem encode_of_decodeF {w : Word} {i : Instr} (hf : (famOf w).toNat = 15)
    (h : decodeF w = some i) : encode i = w := by
  unfold decodeF at h
  split at h
  case h_10 => cases h
  all_goals
    next hnn => cases h; exact wordXI_of_fields hf hnn

/-- Encoding what a word decodes to gives the word back, unless it is a shift (R87, R92). -/
theorem encode_of_decode {w : Word} {i : Instr} (h : decode w = some i) (hs : isShift i = false) :
    encode i = w := by
  unfold decode at h
  split at h
  case h_1 => exact encode_of_decode0 h
  case h_2 hf | h_3 hf | h_11 hf | h_12 hf => cases h; exact wordA_of_fields hf
  case h_4 hf | h_5 hf | h_7 hf | h_8 hf | h_13 hf => cases h; exact wordXI_of_fields hf rfl
  case h_6 hf | h_10 hf =>
    split at h
    · next hn => cases h; exact wordXY_of_fields hf (congrArg BitVec.toNat hn)
    · cases h
  case h_9 hf => exact encode_of_decode8 hf h hs
  case h_14 hf => cases h; exact wordXY_of_fields hf rfl
  case h_15 hf => exact encode_of_decodeE hf h
  case h_16 =>
    have := (famOf w).isLt
    have hf : (famOf w).toNat = 15 := by
      simp only [imp_false] at *
      omega
    exact encode_of_decodeF hf h

end Sys2Proof

namespace Sys2Proof.Machine

/-! ## The instructions that can fault or wait, an equation per case -/

/-- The bytes `i` accesses from `I` on lie inside memory, or it accesses none (R66). -/
def AccessFits (i : Instr) (s : State) : Prop :=
  accessLength i = 0 ∨ s.I.toNat + accessLength i ≤ Config.memSize

theorem not_accessFits_iff {i : Instr} {s : State} :
    ¬ AccessFits i s ↔ 0 < accessLength i ∧ Config.memSize < s.I.toNat + accessLength i := by
  unfold AccessFits
  omega

theorem State.memRead_of_fits {s : State} {n : Nat} (h : n = 0 ∨ s.I.toNat + n ≤ Config.memSize) :
    s.enter.memRead (s.enter.effAddr 0) n = .ok (s.mem.readBytes s.I.toNat n) :=
  if_neg (show ¬ (0 < n ∧ Config.memSize < s.I.toNat + n) by omega)

theorem State.memRead_of_exceeds {s : State} {n : Nat} (h : 0 < n ∧ Config.memSize < s.I.toNat + n) :
    s.enter.memRead (s.enter.effAddr 0) n = .error .memoryOutOfRange :=
  if_pos h

theorem State.memWrite_of_fits {s : State} {bs : List Byte}
    (h : bs.length = 0 ∨ s.I.toNat + bs.length ≤ Config.memSize) :
    s.enter.memWrite (s.enter.effAddr 0) bs = .ok (s.enter.setMem (s.mem.writeBytes s.I.toNat bs)) :=
  if_neg (show ¬ (0 < bs.length ∧ Config.memSize < s.I.toNat + bs.length) by omega)

theorem State.memWrite_of_exceeds {s : State} {bs : List Byte}
    (h : 0 < bs.length ∧ Config.memSize < s.I.toNat + bs.length) :
    s.enter.memWrite (s.enter.effAddr 0) bs = .error .memoryOutOfRange :=
  if_pos h

theorem exec_draw {s : State} {x y : Reg} {n : Nibble} (h : AccessFits (.draw x y n) s) :
    exec (.draw x y n) s = .next (s.enter.blit x y (s.mem.readBytes s.I.toNat n.toNat)) := by
  have hr := State.memRead_of_fits (s := s) (n := n.toNat) h
  simp only [exec, execDraw, hr, State.commit]

theorem exec_bcd {s : State} {x : Reg} (h : AccessFits (.bcd x) s) :
    exec (.bcd x) s =
      .next (s.enter.setMem (s.mem.writeBytes s.I.toNat (bcdDigits (s.reg x)))) := by
  have hw := State.memWrite_of_fits (bs := bcdDigits (s.reg x)) h
  simp only [exec, execBcd, State.reg_enter, hw, State.commit]

theorem exec_storeRegs {s : State} {x : Reg} (h : AccessFits (.storeRegs x) s) :
    exec (.storeRegs x) s = .next (s.enter.setMem (s.mem.writeBytes s.I.toNat (s.regBlock x))) := by
  have hw := State.memWrite_of_fits (s := s) (bs := s.regBlock x) (by rwa [State.length_regBlock])
  simp only [exec, execStoreRegs, State.regBlock_enter, hw, State.commit]

theorem exec_loadRegs {s : State} {x : Reg} (h : AccessFits (.loadRegs x) s) :
    exec (.loadRegs x) s = .next (s.enter.setRegBlock (s.mem.readBytes s.I.toNat (x.val + 1))) := by
  have hr := State.memRead_of_fits (s := s) (n := x.val + 1) h
  simp only [exec, execLoadRegs, hr, State.commit]

/-- An access that passes the end of memory takes MemoryOutOfRange (R285, D6). -/
theorem exec_of_not_accessFits {i : Instr} {s : State} (h : ¬ AccessFits i s) :
    exec i s = .next (s.takeFault .memoryOutOfRange (encode i)) := by
  rw [not_accessFits_iff] at h
  cases i with
  | draw x y n =>
    have hr := State.memRead_of_exceeds (s := s) (n := n.toNat) h
    simp only [exec, execDraw, hr, State.commit]
  | bcd x =>
    have hw := State.memWrite_of_exceeds (bs := bcdDigits (s.reg x)) h
    simp only [exec, execBcd, State.reg_enter, hw, State.commit]
  | storeRegs x =>
    have hw := State.memWrite_of_exceeds (s := s) (bs := s.regBlock x) (by rwa [State.length_regBlock])
    simp only [exec, execStoreRegs, State.regBlock_enter, hw, State.commit]
  | loadRegs x =>
    have hr := State.memRead_of_exceeds (s := s) (n := x.val + 1) h
    simp only [exec, execLoadRegs, hr, State.commit]
  | _ => exact absurd h.1 (Nat.lt_irrefl 0)

theorem exec_ret_of_nil {s : State} (h : s.stack = []) :
    exec .ret s = .next (s.takeFault .stackUnderflow (encode .ret)) := by
  simp only [exec, execRet, State.pop, State.enter_stack, h, State.commit]

theorem exec_ret_of_cons {s : State} {v : Word} {rest : List Word} (h : s.stack = v :: rest) :
    exec .ret s = .next ({ s.enter with stack := rest }.setPc v) := by
  simp only [exec, execRet, State.pop, State.enter_stack, h, State.commit]

theorem exec_call_of_full {s : State} {nnn : Addr} (h : Config.stackDepth ≤ s.stack.length) :
    exec (.call nnn) s = .next (s.takeFault .stackOverflow (encode (.call nnn))) := by
  have hp : s.enter.push s.enter.pc = .error .stackOverflow := if_pos h
  simp only [exec, execCall, hp, State.commit]

theorem exec_call_of_room {s : State} {nnn : Addr} (h : s.stack.length < Config.stackDepth) :
    exec (.call nnn) s =
      .next ({ s.enter with stack := (s.pc + 2) :: s.stack }.setPc (zextAddr nnn)) := by
  have hp : s.enter.push s.enter.pc = .ok { s.enter with stack := (s.pc + 2) :: s.stack } :=
    if_neg (Nat.not_le.mpr h)
  simp only [exec, execCall, hp, State.commit]

theorem exec_getKey_of_none {s : State} {x : Reg} (h : s.key = none) :
    exec (.getKey x) s = .next (s.enter.setPc (s.pc + 2 - 2)) := by
  simp only [exec, execGetKey, State.enter_key, h, State.enter_pc]

theorem exec_getKey_of_some {s : State} {x : Reg} {k : Nibble} (h : s.key = some k) :
    exec (.getKey x) s = .next (s.enter.setReg x (zextNibble k)) := by
  simp only [exec, execGetKey, State.enter_key, h]

/-! ## The frame: it holds after the fetch-advance, and each marked write keeps it (R34) -/

theorem frameKept_enter (i : Instr) (s : State) : FrameKept i s s.enter where
  regs _ _ := rfl
  index _ := rfl
  pc _ := rfl
  stack _ := rfl
  memory _ _ := rfl
  delay _ := tickTimer_toNat s.DT
  sound _ := tickTimer_toNat s.ST
  cells _ := rfl
  key := rfl
  fault := rfl
  draws _ := rfl

section
variable {i : Instr} {s t : State}

theorem FrameKept.setReg (hk : FrameKept i s t) {r : Reg} (hr : mayWriteReg i r = true) (v : Byte) :
    FrameKept i s (t.setReg r v) :=
  { hk with
    regs := fun k hkf => by
      have hne : k ≠ r := by
        rintro rfl
        simp [hr] at hkf
      rw [State.reg_setReg, if_neg hne, hk.regs k hkf] }

theorem FrameKept.setRegAndFlag (hk : FrameKept i s t) {x : Reg} (hx : mayWriteReg i x = true)
    (hf : mayWriteReg i 15 = true) (p : Byte × Bool) : FrameKept i s (t.setRegAndFlag x p) :=
  (hk.setReg hx p.1).setReg hf (flagByte p.2)

theorem FrameKept.setRegBlock (hk : FrameKept i s t) {bs : List Byte}
    (hr : ∀ k : Reg, k.val < bs.length → mayWriteReg i k = true) :
    FrameKept i s (t.setRegBlock bs) :=
  { hk with
    regs := fun k hkf => by
      have hout : ¬ k.val < bs.length := fun hlt => by simp [hr k hlt] at hkf
      rw [State.reg_setRegBlock, if_neg hout, hk.regs k hkf] }

theorem FrameKept.setI (hk : FrameKept i s t) (hi : mayWriteI i = true) (v : Word) :
    FrameKept i s (t.setI v) :=
  { hk with index := fun hf => by simp [hi] at hf }

theorem FrameKept.setPc (hk : FrameKept i s t) (hp : mayWritePc i = true) (v : Word) :
    FrameKept i s (t.setPc v) :=
  { hk with pc := fun hf => by simp [hp] at hf }

theorem FrameKept.skipIf (hk : FrameKept i s t) (hp : mayWritePc i = true) (c : Bool) :
    FrameKept i s (t.skipIf c) := by
  cases c
  · exact hk
  · exact hk.setPc hp (t.pc + 2)

theorem FrameKept.setStack (hk : FrameKept i s t) (hw : mayWriteStack i = true) (l : List Word) :
    FrameKept i s { t with stack := l } :=
  { hk with stack := fun hf => by simp [hw] at hf }

theorem FrameKept.setFb (hk : FrameKept i s t) (hw : mayWriteFb i = true) (g : Grid) :
    FrameKept i s (t.setFb g) :=
  { hk with cells := fun hf => by simp [hw] at hf }

theorem FrameKept.setDT (hk : FrameKept i s t) (hw : ∃ x, i = .setDelay x) (v : Byte) :
    FrameKept i s (t.setDT v) :=
  { hk with delay := fun hf => hw.elim fun x hx => absurd hx (hf x) }

theorem FrameKept.setST (hk : FrameKept i s t) (hw : ∃ x, i = .setSound x) (v : Byte) :
    FrameKept i s (t.setST v) :=
  { hk with sound := fun hf => hw.elim fun x hx => absurd hx (hf x) }

theorem FrameKept.drawRandom (hk : FrameKept i s t) (hw : ∃ x nn, i = .setRandom x nn) :
    FrameKept i s t.drawRandom.2 :=
  { hk with draws := fun hf => hw.elim fun x hx => hx.elim fun nn e => absurd e (hf x nn) }

theorem FrameKept.writeBytes (hk : FrameKept i s t) {bs : List Byte} (hl : bs.length = storeLength i) :
    FrameKept i s (t.setMem (t.mem.writeBytes s.I.toNat bs)) :=
  { hk with
    memory := fun a ha => by
      have hout : ¬ (s.I.toNat ≤ a ∧ a < s.I.toNat + bs.length) := hl ▸ ha
      rw [State.setMem_mem, Memory.read_writeBytes, if_neg hout, hk.memory a ha] }

end

/-! ## The two ways an instruction ends (R133) -/

/-- Instruction `i` begun at `s` completes in `t`: the frame is kept, and so is memory's canonical form. -/
structure Completes (i : Instr) (s t : State) : Prop where
  result : exec i s = .next t
  frame : FrameKept i s t
  canonical : s.MemoryCanonical → t.MemoryCanonical

/-- The faults of the execute phase, each with its cause in the state the step begins at (R283 to R285). -/
inductive FaultCause (s : State) : Instr → Fault → Prop where
  | underflow (h : s.stack = []) : FaultCause s .ret .stackUnderflow
  | overflow (nnn : Addr) (h : Config.stackDepth ≤ s.stack.length) :
      FaultCause s (.call nnn) .stackOverflow
  | outOfRange {i : Instr} (h : ¬ AccessFits i s) : FaultCause s i .memoryOutOfRange

/-- An instruction completes, or it takes a fault that has its cause. -/
def Ends (i : Instr) (s : State) : Prop :=
  (∃ t, Completes i s t) ∨
    ∃ f, FaultCause s i f ∧ exec i s = .next (s.takeFault f (encode i))

theorem Ends.completed {i : Instr} {s t : State} (h : exec i s = .next t) (hk : FrameKept i s t)
    (hm : t.mem = s.mem) : Ends i s :=
  .inl ⟨t, h, hk, fun hc => by rwa [State.MemoryCanonical, hm]⟩

theorem Ends.stored {i : Instr} {s : State} {bs : List Byte} (hl : bs.length = storeLength i)
    (hfit : s.I.toNat + bs.length ≤ Config.memSize)
    (h : exec i s = .next (s.enter.setMem (s.mem.writeBytes s.I.toNat bs))) : Ends i s :=
  .inl ⟨_, h, (frameKept_enter i s).writeBytes hl, Memory.wf_writeBytes hfit⟩

theorem Ends.faulted {i : Instr} {s : State} {f : Fault} (hc : FaultCause s i f)
    (h : exec i s = .next (s.takeFault f (encode i))) : Ends i s :=
  .inr ⟨f, hc, h⟩

/-- Every instruction, from every state: each arm names the writes it makes after the fetch-advance. -/
theorem exec_cases (i : Instr) (s : State) : Ends i s := by
  have hk := frameKept_enter i s
  by_cases hfit : AccessFits i s
  case neg => exact .faulted (.outOfRange hfit) (exec_of_not_accessFits hfit)
  cases i with
  | clearScreen => exact .completed rfl (hk.setFb rfl _) rfl
  | ret =>
    cases hst : s.stack with
    | nil => exact .faulted (.underflow hst) (exec_ret_of_nil hst)
    | cons v rest => exact .completed (exec_ret_of_cons hst) ((hk.setStack rfl rest).setPc rfl v) rfl
  | call nnn =>
    rcases Nat.lt_or_ge s.stack.length Config.stackDepth with hroom | hfull
    · exact .completed (exec_call_of_room hroom) ((hk.setStack rfl _).setPc rfl _) rfl
    · exact .faulted (.overflow nnn hfull) (exec_call_of_full hfull)
  | jump | jumpWithOffset => exact .completed rfl (hk.setPc rfl _) rfl
  | skipEq | skipNeq | skipRegEq | skipRegNeq | skipKeyPressed | skipKeyNotPressed =>
    exact .completed rfl (hk.skipIf rfl _) (State.skipIf_mem _ _)
  | set x | addImm x | copy x | or x | and x | xor x | getDelay x =>
    exact .completed rfl (hk.setReg (beq_self_eq_true x) _) rfl
  | add x | sub x | subn x | shiftRight x | shiftLeft x =>
    exact .completed rfl (hk.setRegAndFlag (by simp [mayWriteReg]) (by simp [mayWriteReg]) _) rfl
  | setRandom x nn =>
    exact .completed rfl ((hk.drawRandom ⟨x, nn, rfl⟩).setReg (beq_self_eq_true x) _) rfl
  | setI | addI | fontAddr => exact .completed rfl (hk.setI rfl _) rfl
  | setDelay x => exact .completed rfl (hk.setDT ⟨x, rfl⟩ _) rfl
  | setSound x => exact .completed rfl (hk.setST ⟨x, rfl⟩ _) rfl
  | getKey x =>
    cases hkey : s.key with
    | none => exact .completed (exec_getKey_of_none hkey) (hk.setPc rfl _) rfl
    | some k => exact .completed (exec_getKey_of_some hkey) (hk.setReg (beq_self_eq_true x) _) rfl
  | draw x y n => exact .completed (exec_draw hfit) ((hk.setFb rfl _).setReg rfl _) rfl
  | bcd x =>
    have hin : s.I.toNat + (bcdDigits (s.reg x)).length ≤ Config.memSize :=
      hfit.resolve_left (by simp [accessLength])
    exact .stored rfl hin (exec_bcd hfit)
  | storeRegs x =>
    have hl := State.length_regBlock s x
    exact .stored hl (hl ▸ hfit.resolve_left (by simp [accessLength])) (exec_storeRegs hfit)
  | loadRegs x =>
    refine .completed (exec_loadRegs hfit) (hk.setRegBlock fun k hlt => ?_) rfl
    rw [Memory.length_readBytes] at hlt
    exact decide_eq_true (Nat.le_of_lt_succ hlt)

theorem next_unique {r : Result} {t u : State} (ht : r = .next t) (hu : r = .next u) : t = u :=
  Host.Outcome.next.inj (ht.symm.trans hu)

/-- `exec_cases` for an instruction whose next state is known. -/
theorem exec_next_cases {i : Instr} {s t : State} (h : exec i s = .next t) :
    Completes i s t ∨ ∃ f, FaultCause s i f ∧ t = s.takeFault f (encode i) := by
  rcases exec_cases i s with ⟨u, hu⟩ | ⟨f, hc, hf⟩
  · obtain rfl := next_unique h hu.result
    exact .inl hu
  · exact .inr ⟨f, hc, next_unique h hf⟩

/-! ## What a step begins with -/

theorem State.wordAtPc_eq (s : State) :
    s.wordAtPc = wordOfBytes (s.mem.read s.pc.toNat) (s.mem.read (s.pc.toNat + 1)) := by
  apply BitVec.eq_of_toNat_eq
  have := (s.mem.read s.pc.toNat).isLt
  have := (s.mem.read (s.pc.toNat + 1)).isLt
  rw [wordOfBytes_toNat, State.wordAtPc, BitVec.toNat_ofNat]
  omega

/-- A halted machine's step changes nothing (R131). -/
theorem step_of_halted {s : State} (h : s.fault ≠ none) : step s = .next s := by
  rcases step_cases s with ⟨_, he⟩ | ⟨hf, _⟩ | ⟨hf, _⟩
  · exact he
  all_goals exact absurd hf h

/-- `step_cases` for a step whose next state is known: the machine is halted, a fault of the fetch or the
decode phase is taken, or the instruction at `pc` is executed (R131). -/
theorem step_next_cases {s t : State} (h : step s = .next t) :
    (s.fault ≠ none ∧ t = s) ∨
      (s.fault = none ∧ 0xFFE < s.pc.toNat ∧ t = s.takeFault .fetchOutOfRange 0) ∨
      (s.fault = none ∧ s.pc.toNat ≤ 0xFFE ∧ decode s.wordAtPc = none ∧
        t = s.takeFault .decodeFailure s.wordAtPc) ∨
      (s.fault = none ∧ s.pc.toNat ≤ 0xFFE ∧
        ∃ i, decode s.wordAtPc = some i ∧ exec i s = .next t) := by
  have hmem : Config.memSize = 4096 := rfl
  rcases step_cases s with ⟨hf, he⟩ | ⟨hf, hpc, he⟩ | ⟨hf, hpc, w, rfl, ⟨hd, he⟩ | ⟨i, hd, he⟩⟩
  · exact .inl ⟨hf, next_unique h he⟩
  · exact .inr (.inl ⟨hf, by omega, next_unique h he⟩)
  · rw [← s.wordAtPc_eq] at hd he
    exact .inr (.inr (.inl ⟨hf, by omega, hd, next_unique h he⟩))
  · rw [← s.wordAtPc_eq] at hd
    exact .inr (.inr (.inr ⟨hf, by omega, i, hd, he.symm.trans h⟩))

/-! ## Control stays bounded (R24, R25) -/

theorem pc_add_two_toNat {a : Word} (h : a.toNat ≤ 0xFFE) : (a + 2).toNat = a.toNat + 2 := by
  bv_omega

theorem zextAddr_le (nnn : Addr) : (zextAddr nnn).toNat ≤ 0xFFF := by
  have := nnn.isLt
  rw [zextAddr, BitVec.toNat_setWidth]
  omega

theorem jumpOffset_le (nnn : Addr) (b : Byte) : (zextAddr nnn + zextByte b).toNat ≤ 0x10FE := by
  have := zextAddr_le nnn
  have := b.isLt
  rw [BitVec.toNat_add, zextByte, BitVec.toNat_setWidth]
  omega

section
variable {i : Instr} {s t : State}

theorem controlBounded_setPc (hs : s.ControlBounded) {v : Word} (hv : v.toNat ≤ 0x10FE) :
    (s.setPc v).ControlBounded :=
  ⟨hv, hs.2⟩

theorem controlBounded_enter (hs : s.ControlBounded) (hpc : s.pc.toNat ≤ 0xFFE) :
    s.enter.ControlBounded := by
  have := pc_add_two_toNat hpc
  exact ⟨by rw [State.enter_pc]; omega, hs.2⟩

theorem controlBounded_skipIf (hs : s.ControlBounded) (hpc : s.pc.toNat ≤ 0xFFE) (c : Bool) :
    (s.enter.skipIf c).ControlBounded := by
  have he := controlBounded_enter hs hpc
  cases c
  · exact he
  · exact controlBounded_setPc he (by rw [State.enter_pc]; bv_omega)

/-- A return address is at most 0x1000, so a `return` that pops one keeps the bounds (R151). -/
theorem controlBounded_return (hs : s.ControlBounded) {v : Word} {rest : List Word}
    (hst : s.stack = v :: rest) : ({ s.enter with stack := rest }.setPc v).ControlBounded := by
  obtain ⟨_, hlen, hbound⟩ := hs
  rw [hst] at hlen hbound
  rw [List.forall_mem_cons] at hbound
  exact ⟨by simp only [State.setPc_pc]; omega, Nat.le_of_succ_le hlen, hbound.2⟩

/-- The address a `call` pushes is at most 0x1000, since the call was fetched below it (R153). -/
theorem controlBounded_call (hs : s.ControlBounded) (hpc : s.pc.toNat ≤ 0xFFE)
    (hroom : s.stack.length < Config.stackDepth) (nnn : Addr) :
    ({ s.enter with stack := (s.pc + 2) :: s.stack }.setPc (zextAddr nnn)).ControlBounded := by
  have := zextAddr_le nnn
  have := pc_add_two_toNat hpc
  refine ⟨by simp only [State.setPc_pc]; omega, hroom, ?_⟩
  exact List.forall_mem_cons.mpr ⟨by omega, hs.2.2⟩

theorem not_mayWriteStack_of_not_mayWritePc (hp : mayWritePc i = false) : mayWriteStack i = false := by
  cases i with
  | ret | call => cases hp
  | _ => rfl

/-- An instruction that does not change `pc` beyond the fetch-advance keeps the bounds: it leaves the stack
alone too. -/
theorem controlBounded_of_frame (hk : FrameKept i s t) (hp : mayWritePc i = false)
    (hs : s.ControlBounded) (hpc : s.pc.toNat ≤ 0xFFE) : t.ControlBounded := by
  have he := controlBounded_enter hs hpc
  rwa [State.ControlBounded, hk.pc hp, hk.stack (not_mayWriteStack_of_not_mayWritePc hp)]

/-- The eleven instructions that change `pc` beyond the fetch-advance keep the bounds, a fault included. -/
theorem pcWriter_keeps_controlBounded (hp : mayWritePc i = true) (hs : s.ControlBounded)
    (hpc : s.pc.toNat ≤ 0xFFE) (h : exec i s = .next t) : t.ControlBounded := by
  have he := controlBounded_enter hs hpc
  cases i with
  | ret =>
    cases hst : s.stack with
    | nil =>
      obtain rfl := next_unique h (exec_ret_of_nil hst)
      exact hs
    | cons v rest =>
      obtain rfl := next_unique h (exec_ret_of_cons hst)
      exact controlBounded_return hs hst
  | call nnn =>
    rcases Nat.lt_or_ge s.stack.length Config.stackDepth with hroom | hfull
    · obtain rfl := next_unique h (exec_call_of_room hroom)
      exact controlBounded_call hs hpc hroom nnn
    · obtain rfl := next_unique h (exec_call_of_full hfull)
      exact hs
  | jump nnn =>
    cases h
    exact controlBounded_setPc he ((zextAddr_le nnn).trans (by decide))
  | jumpWithOffset nnn =>
    cases h
    exact controlBounded_setPc he (jumpOffset_le nnn _)
  | skipEq | skipNeq | skipRegEq | skipRegNeq | skipKeyPressed | skipKeyNotPressed =>
    cases h
    exact controlBounded_skipIf hs hpc _
  | getKey x =>
    cases hkey : s.key with
    | none =>
      obtain rfl := next_unique h (exec_getKey_of_none hkey)
      exact controlBounded_setPc he (by rw [BitVec.add_sub_cancel]; exact hs.1)
    | some k =>
      obtain rfl := next_unique h (exec_getKey_of_some hkey)
      exact he
  | _ => cases hp

theorem exec_keeps_controlBounded (hs : s.ControlBounded) (hpc : s.pc.toNat ≤ 0xFFE)
    (h : exec i s = .next t) : t.ControlBounded := by
  cases hp : mayWritePc i with
  | true => exact pcWriter_keeps_controlBounded hp hs hpc h
  | false =>
    rcases exec_next_cases h with hc | ⟨f, _, rfl⟩
    · exact controlBounded_of_frame hc.frame hp hs hpc
    · exact hs

theorem step_keeps_controlBounded (hs : s.ControlBounded) (h : step s = .next t) :
    t.ControlBounded := by
  rcases step_next_cases h with ⟨_, rfl⟩ | ⟨_, _, rfl⟩ | ⟨_, _, _, rfl⟩ | ⟨_, hpc, i, _, hx⟩
  · exact hs
  · exact hs
  · exact hs
  · exact exec_keeps_controlBounded hs hpc hx

/-! ## Memory stays canonical, and the latch truthful -/

theorem step_keeps_memoryCanonical (hs : s.MemoryCanonical) (h : step s = .next t) :
    t.MemoryCanonical := by
  rcases step_next_cases h with ⟨_, rfl⟩ | ⟨_, _, rfl⟩ | ⟨_, _, _, rfl⟩ | ⟨_, _, i, _, hx⟩
  · exact hs
  · exact hs
  · exact hs
  · rcases exec_next_cases hx with hc | ⟨f, _, rfl⟩
    · exact hc.canonical hs
    · exact hs

theorem latchTruthful_of_running (h : s.fault = none) : s.LatchTruthful := by
  intro r hr
  rw [h] at hr
  cases hr

/-- The decoder drops no bit of an instruction that can fault. -/
theorem FaultCause.not_shift {f : Fault} (hc : FaultCause s i f) : isShift i = false := by
  cases hc with
  | underflow | overflow => rfl
  | outOfRange h =>
    cases i with
    | shiftRight | shiftLeft => exact absurd (.inl rfl) h
    | _ => rfl

/-- A fault of the execute phase records the fetched word, since the instruction's encoding is that word
(R281; log entry 2), and its cause still holds. -/
theorem latchTruthful_takeFault {f : Fault} (hc : FaultCause s i f) (hpc : s.pc.toNat ≤ 0xFFE)
    (hd : decode s.wordAtPc = some i) : (s.takeFault f (encode i)).LatchTruthful := by
  have hw : encode i = s.wordAtPc := encode_of_decode hd hc.not_shift
  rw [hw]
  intro r hr
  obtain rfl := Option.some.inj hr
  refine ⟨rfl, ?_⟩
  cases hc with
  | underflow h => exact ⟨hpc, rfl, hd, h⟩
  | overflow nnn h => exact ⟨hpc, rfl, nnn, hd, h⟩
  | outOfRange h => exact ⟨hpc, rfl, i, hd, not_accessFits_iff.mp h⟩

theorem step_keeps_latchTruthful (hs : s.LatchTruthful) (h : step s = .next t) : t.LatchTruthful := by
  rcases step_next_cases h with ⟨_, rfl⟩ | ⟨_, hpc, rfl⟩ | ⟨_, hpc, hd, rfl⟩ | ⟨hf, hpc, i, hd, hx⟩
  · exact hs
  · intro r hr
    obtain rfl := Option.some.inj hr
    exact ⟨rfl, hpc, rfl⟩
  · intro r hr
    obtain rfl := Option.some.inj hr
    exact ⟨rfl, hpc, rfl, hd⟩
  · rcases exec_next_cases hx with hc | ⟨f, hc, rfl⟩
    · exact latchTruthful_of_running (hc.frame.fault.trans hf)
    · exact latchTruthful_takeFault hc hpc hd

end

/-! ## The three invariants along an execution (R9) -/

/-- The three invariants of the machine together. -/
def Invariants (s : State) : Prop := s.MemoryCanonical ∧ s.ControlBounded ∧ s.LatchTruthful

/-- A machine just loaded, with any image that fits, meets the invariants (R310, R311). -/
theorem invariants_loaded {image : List Byte} (h : image.length ≤ Config.progMax) (draws : Nat) :
    Invariants { State.reset with
      mem := Memory.writeBytes State.reset.mem Config.progBase image, draws := draws } := by
  have hfit : Config.progBase + image.length ≤ Config.memSize := Nat.add_le_add_left h Config.progBase
  have hctl : State.reset.ControlBounded := ⟨by decide, by decide, nofun⟩
  exact ⟨Memory.wf_writeBytes hfit Memory.wf_nil, hctl, latchTruthful_of_running rfl⟩

theorem invariants_load {image : List Byte} {draws : Nat} {s : State}
    (h : State.load image draws = .ok s) : Invariants s := by
  rcases State.load_cases image draws with ⟨hfit, he⟩ | ⟨_, he⟩
  · obtain rfl := Except.ok.inj (he.symm.trans h)
    exact invariants_loaded hfit draws
  · cases he.symm.trans h

theorem invariants_step {s t : State} (hs : Invariants s) (h : step s = .next t) : Invariants t := by
  obtain ⟨hmem, hctl, hlatch⟩ := hs
  exact ⟨step_keeps_memoryCanonical hmem h, step_keeps_controlBounded hctl h,
    step_keeps_latchTruthful hlatch h⟩

theorem invariants_hostMove {s : State} (hs : Invariants s) (m : HostMove) :
    Invariants (s.hostMove m) := by
  cases m with
  | load image =>
    rw [State.hostMove]
    rcases State.reload_cases s image with ⟨hfit, he⟩ | ⟨_, he⟩
    · rw [he]
      exact invariants_loaded hfit s.draws
    · rwa [he]
  | keyPress | keyRelease => exact hs

theorem invariants_of_reachable {s : State} (h : Reachable s) : Invariants s := by
  induction h with
  | loaded h => exact invariants_load h
  | step _ h ih => exact invariants_step ih h
  | host _ m ih => exact invariants_hostMove ih m

/-! ## The flag register (R22) -/

theorem State.setFlag_reg_VF (s : State) (c : Bool) :
    (s.setFlag c).reg 15 = 0 ∨ (s.setFlag c).reg 15 = 1 := by
  rw [State.setFlag, State.reg_setReg, if_pos rfl]
  cases c
  · exact .inl rfl
  · exact .inr rfl

theorem exec_draw_reg_VF {s t : State} {x y : Reg} {n : Nibble}
    (h : exec (.draw x y n) s = .next t) (htf : t.fault = none) : t.reg 15 = 0 ∨ t.reg 15 = 1 := by
  by_cases hfit : AccessFits (.draw x y n) s
  · obtain rfl := next_unique h (exec_draw hfit)
    exact State.setFlag_reg_VF _ _
  · obtain rfl := next_unique h (exec_of_not_accessFits hfit)
    cases htf

/-- The rows of the access matrix that mark `VF`: the flag writers, the forms with `X = 15` as destination and
`load-regs VF` (R22, R34). -/
theorem mayWriteReg_VF {i : Instr} (h : mayWriteReg i 15 = true) :
    (∃ x y, i = .add x y ∨ i = .sub x y ∨ i = .subn x y) ∨
    (∃ x, i = .shiftRight x ∨ i = .shiftLeft x) ∨ (∃ x y n, i = .draw x y n) ∨
    (∃ nn, i = .set 15 nn ∨ i = .addImm 15 nn ∨ i = .setRandom 15 nn) ∨
    (∃ y, i = .copy 15 y ∨ i = .or 15 y ∨ i = .and 15 y ∨ i = .xor 15 y) ∨
    i = .getDelay 15 ∨ i = .getKey 15 ∨ i = .loadRegs 15 := by
  cases i with
  | add | sub | subn | shiftRight | shiftLeft | draw => simp
  | set x | addImm x | setRandom x | copy x | or x | and x | xor x | getDelay x | getKey x =>
    obtain rfl : 15 = x := eq_of_beq h
    simp
  | loadRegs x =>
    have hx : (15 : Reg) ≤ x := of_decide_eq_true h
    obtain rfl : x = 15 := le_antisymm (Fin.le_last x) hx
    simp
  | _ => cases h

/-! ## The sound timer is written and never read (R27) -/

/-- From `s` and from `s` with another sound timer, `i` ends in states that differ in the sound timer
alone. -/
def IgnoresST (i : Instr) (s : State) (v : Byte) : Prop :=
  ∃ t w, exec i s = .next t ∧ exec i (s.setST v) = .next (t.setST w)

theorem State.skipIf_setST (s : State) (v : Byte) (c : Bool) :
    (s.setST v).skipIf c = (s.skipIf c).setST v := by
  cases c <;> rfl

theorem exec_ignoresST (i : Instr) (s : State) (v : Byte) : IgnoresST i s v := by
  by_cases hfit : AccessFits i s
  case neg => exact ⟨_, v, exec_of_not_accessFits hfit, exec_of_not_accessFits (s := s.setST v) hfit⟩
  cases i with
  | ret =>
    cases hst : s.stack with
    | nil => exact ⟨_, v, exec_ret_of_nil hst, exec_ret_of_nil (s := s.setST v) hst⟩
    | cons w rest =>
      exact ⟨_, tickTimer v, exec_ret_of_cons hst, exec_ret_of_cons (s := s.setST v) hst⟩
  | call nnn =>
    rcases Nat.lt_or_ge s.stack.length Config.stackDepth with hroom | hfull
    · exact ⟨_, tickTimer v, exec_call_of_room hroom, exec_call_of_room (s := s.setST v) hroom⟩
    · exact ⟨_, v, exec_call_of_full hfull, exec_call_of_full (s := s.setST v) hfull⟩
  | skipEq | skipNeq | skipRegEq | skipRegNeq | skipKeyPressed | skipKeyNotPressed =>
    exact ⟨_, tickTimer v, rfl, congrArg Host.Outcome.next (State.skipIf_setST s.enter _ _)⟩
  | getKey x =>
    cases hkey : s.key with
    | none => exact ⟨_, tickTimer v, exec_getKey_of_none hkey, exec_getKey_of_none (s := s.setST v) hkey⟩
    | some k =>
      exact ⟨_, tickTimer v, exec_getKey_of_some hkey, exec_getKey_of_some (s := s.setST v) hkey⟩
  | draw => exact ⟨_, tickTimer v, exec_draw hfit, exec_draw (s := s.setST v) hfit⟩
  | bcd => exact ⟨_, tickTimer v, exec_bcd hfit, exec_bcd (s := s.setST v) hfit⟩
  | storeRegs => exact ⟨_, tickTimer v, exec_storeRegs hfit, exec_storeRegs (s := s.setST v) hfit⟩
  | loadRegs => exact ⟨_, tickTimer v, exec_loadRegs hfit, exec_loadRegs (s := s.setST v) hfit⟩
  | setSound x => exact ⟨_, s.reg x, rfl, rfl⟩
  | _ => exact ⟨_, tickTimer v, rfl, rfl⟩

theorem step_of_fetchDecode_error {s : State} {f : Fault} {w : Word} (hf : s.fault = none)
    (hd : s.fetchDecode = .error (f, w)) : step s = .next (s.takeFault f w) := by
  simp only [step, hf, hd]

theorem step_of_fetchDecode_ok {s : State} {i : Instr} (hf : s.fault = none)
    (hd : s.fetchDecode = .ok i) : step s = exec i s := by
  simp only [step, hf, hd]

theorem step_ignoresST (s : State) (v : Byte) :
    ∃ t w, step s = .next t ∧ step (s.setST v) = .next (t.setST w) := by
  by_cases hf : s.fault = none
  case neg => exact ⟨s, v, step_of_halted hf, step_of_halted (s := s.setST v) hf⟩
  cases hd : s.fetchDecode with
  | error p =>
    exact ⟨_, v, step_of_fetchDecode_error hf hd, step_of_fetchDecode_error (s := s.setST v) hf hd⟩
  | ok i =>
    obtain ⟨t, w, hs, hv⟩ := exec_ignoresST i s v
    exact ⟨t, w, (step_of_fetchDecode_ok hf hd).trans hs,
      (step_of_fetchDecode_ok (s := s.setST v) hf hd).trans hv⟩

/-! ## Reset memory (R33, R52) -/

theorem resetByte_eq_font (a : Nat) :
    Memory.resetByte a = if 0x050 ≤ a ∧ a < 0x0A0 then Config.font.getD (a - 0x050) 0 else 0 := by
  rw [Memory.resetByte, show Config.fontBase = 0x050 from rfl]
  by_cases hlo : 0x050 ≤ a
  · by_cases hhi : a < 0x0A0
    · rw [if_pos hlo, if_pos ⟨hlo, hhi⟩]
    · have hlen : Config.font.length ≤ a - 0x050 := show 80 ≤ a - 0x050 by omega
      rw [if_pos hlo, if_neg (fun h => hhi h.2), List.getD_eq_default _ _ hlen]
  · rw [if_neg hlo, if_neg (fun h => hlo h.1)]

/-! ## The obligations -/

/-- Settles O54: the fetch bounds `pc` by 0xFFE, and each writer of `pc` is bounded from there. -/
theorem stepKeepsControlBounded : Obligations.StepKeepsControlBounded :=
  fun _ _ hs h => step_keeps_controlBounded hs h

/-- Settles O29: every flag writer writes the flag last. -/
theorem flagWritersLeaveZeroOrOne : Obligations.FlagWritersLeaveZeroOrOne := by
  intro i s t hi _ h htf
  rcases hi with ⟨x, y, rfl | rfl | rfl⟩ | ⟨x, rfl | rfl⟩ | ⟨x, y, n, rfl⟩
  case inr.inr => exact exec_draw_reg_VF h htf
  all_goals
    cases h
    exact State.setFlag_reg_VF _ _

/-- Settles O30: a completed instruction changes only the registers of its row, a fault none. -/
theorem onlyFlagWritersTouchVF : Obligations.OnlyFlagWritersTouchVF := by
  intro i s t h hne
  rcases exec_next_cases h with hc | ⟨f, _, rfl⟩
  · have hw : mayWriteReg i 15 = true := by
      by_contra hno
      exact hne (hc.frame.regs 15 (Bool.eq_false_iff.mpr hno))
    exact mayWriteReg_VF hw
  · exact absurd rfl hne

/-- Settles O57, by induction on how the state is reached. -/
theorem reachableStatesMeetTheInvariants : Obligations.ReachableStatesMeetTheInvariants :=
  fun _ h => invariants_of_reachable h

/-- Settles O58, from the two ways an instruction ends. -/
theorem instructionsChangeOnlyWhatTheMatrixMarks :
    Obligations.InstructionsChangeOnlyWhatTheMatrixMarks := by
  intro i s t hf h
  rcases exec_next_cases h with hc | ⟨f, _, rfl⟩
  · exact .inl ⟨hc.frame.fault.trans hf, hc.frame⟩
  · exact .inr ⟨_, rfl⟩

/-- Settles O59: whether a step faults and what it leaves elsewhere does not depend on the timer. -/
theorem soundTimerIsNeverRead : Obligations.SoundTimerIsNeverRead := by
  intro s t v h
  obtain ⟨u, w, hu, hv⟩ := step_ignoresST s v
  obtain rfl := next_unique h hu
  exact ⟨w, hv⟩

/-- Settles O9: the first of the ways a step goes. -/
theorem haltedMachineStaysAsItIs : Obligations.HaltedMachineStaysAsItIs :=
  fun _ h => step_of_halted h

/-- Settles O50: field by field, memory being the font table and zeros. -/
theorem resetState : Obligations.ResetState :=
  ⟨rfl, by decide, rfl, rfl, rfl, rfl, Grid.cell_blank, rfl, rfl, resetByte_eq_font⟩

/-- Settles O56: reset is the load of the empty image. -/
theorem resetMeetsTheInvariants : Obligations.ResetMeetsTheInvariants :=
  invariants_load State.load_nil

/-- Settles O60: the five faults have the five codes. -/
theorem faultPortShowsTheLatch : Obligations.FaultPortShowsTheLatch := by
  intro s f a w
  refine ⟨fun h => ?_, fun h => ?_⟩
  · simp [State.faultPort, State.faultCode, h]
  · cases f <;> simp [State.faultPort, State.faultCode, h, Fault.code]

end Sys2Proof.Machine

end

section
/-! # Memory family: every step keeps the canonical form of memory (R50, R53) -/

namespace Sys2Proof.Machine

/-- Settles O53: a completed instruction writes memory only by a run of bytes that fits inside it
(`Ends.stored`), and a halted machine or a fault leaves memory as it was. -/
theorem stepKeepsMemoryCanonical : Obligations.StepKeepsMemoryCanonical :=
  fun _ _ hs h => step_keeps_memoryCanonical hs h

end Sys2Proof.Machine

end

section
/-! # Encoding family: the decoder, the encoder and the opcode map (R84, R85, R88, R92, R113)

What the fields of an instruction's word decode to, what a word that decodes is encoded from, which fields
decide the form a word decodes to, and for each family the words that decode to nothing. -/

namespace Sys2Proof

/-! ## Decoding the word of an instruction (R92) -/

/-- Decoding the encoding of an instruction gives it back, format by format: each field of the word is the
operand put there, and the family and the subtable's field select the form (R92). -/
theorem decode_encode (i : Instr) : decode (encode i) = some i := by
  cases i with
  | clearScreen | ret => rfl
  | jump nnn | call nnn | setI nnn | jumpWithOffset nnn =>
    simp [encode, decode, famOf_wordA, nnnOf_wordA]
  | skipEq x nn | skipNeq x nn | set x nn | addImm x nn | setRandom x nn =>
    simp [encode, decode, famOf_wordXI, xOf_wordXI, nnOf_wordXI]
  | skipRegEq x y | skipRegNeq x y =>
    simp [encode, decode, famOf_wordXY, xOf_wordXY, yOf_wordXY, nOf_wordXY]
  | draw x y n =>
    simp [encode, decode, famOf_wordXY, xOf_wordXY, yOf_wordXY, nOf_wordXY]
  | copy x y | or x y | and x y | xor x y | add x y | sub x y | subn x y =>
    simp [encode, decode, decode8, famOf_wordXY, xOf_wordXY, yOf_wordXY, nOf_wordXY]
  | shiftRight x | shiftLeft x =>
    simp [encode, decode, decode8, famOf_wordXY, xOf_wordXY, nOf_wordXY]
  | skipKeyPressed x | skipKeyNotPressed x =>
    simp [encode, decode, decodeE, famOf_wordXI, xOf_wordXI, nnOf_wordXI]
  | getDelay x | getKey x | setDelay x | setSound x | addI x | fontAddr x | bcd x | storeRegs x
  | loadRegs x =>
    simp [encode, decode, decodeF, famOf_wordXI, xOf_wordXI, nnOf_wordXI]

/-! ## Encoding what a word decodes to: the shifts (R87, R92) -/

theorem isShift_iff (i : Instr) : isShift i = true ↔ ∃ x, i = .shiftRight x ∨ i = .shiftLeft x := by
  cases i <;> simp [isShift]

/-- The mask clears `Y` and keeps the other fields. -/
theorem wordXY_clearY (f : Nibble) (x y : Reg) (n : Nibble) :
    wordXY f x y n &&& 0xFF0F = wordXY f x 0 n := by
  have h : (0xFF0F : Word) = BitVec.allOnes 8 ++ (0#4 ++ BitVec.allOnes 4 : Byte) := rfl
  rw [h, wordXY, BitVec.and_append, BitVec.and_append, BitVec.and_allOnes, BitVec.and_zero,
    BitVec.and_allOnes]
  rfl

theorem wordXY_zero_of_fields {w : Word} {f n : Nibble} (hf : (famOf w).toNat = f.toNat)
    (hn : (nOf w).toNat = n.toNat) : wordXY f (xOf w) 0 n = w &&& 0xFF0F := by
  rw [← wordXY_clearY f (xOf w) (yOf w) n, wordXY_of_fields hf hn]

/-- Only family 0x8 has shifts, and only under `N` = 6 and `N` = 0xE. -/
theorem encode_of_decode_shift {w : Word} {i : Instr} (h : decode w = some i) (hs : isShift i = true) :
    encode i = w &&& 0xFF0F := by
  unfold decode at h
  split at h
  case h_9 hf =>
    unfold decode8 at h
    split at h
    case h_7 hn | h_9 hn => cases h; exact wordXY_zero_of_fields hf hn
    case h_10 => cases h
    all_goals cases h; cases hs
  case h_1 => unfold decode0 at h; split_ifs at h <;> cases h <;> cases hs
  case h_6 | h_10 => split_ifs at h; cases h; cases hs
  case h_15 => unfold decodeE at h; split at h <;> cases h <;> cases hs
  case h_16 => unfold decodeF at h; split at h <;> cases h <;> cases hs
  all_goals cases h; cases hs

/-! ## A word that decodes is of the row with its form's tag (R85, R113) -/

/-- The family `Laws.OpcodeRowOf`, put together. -/
theorem opcodeRow_of_encode (i : Instr) : Laws.OpcodeRowOf.Statement i := by
  cases i with
  | clearScreen => exact Laws.OpcodeRowOf.clearScreen
  | ret => exact Laws.OpcodeRowOf.ret
  | jump nnn => exact Laws.OpcodeRowOf.jump nnn
  | call nnn => exact Laws.OpcodeRowOf.call nnn
  | skipEq x nn => exact Laws.OpcodeRowOf.skipEq x nn
  | skipNeq x nn => exact Laws.OpcodeRowOf.skipNeq x nn
  | skipRegEq x y => exact Laws.OpcodeRowOf.skipRegEq x y
  | set x nn => exact Laws.OpcodeRowOf.set x nn
  | addImm x nn => exact Laws.OpcodeRowOf.addImm x nn
  | copy x y => exact Laws.OpcodeRowOf.copy x y
  | or x y => exact Laws.OpcodeRowOf.or x y
  | and x y => exact Laws.OpcodeRowOf.and x y
  | xor x y => exact Laws.OpcodeRowOf.xor x y
  | add x y => exact Laws.OpcodeRowOf.add x y
  | sub x y => exact Laws.OpcodeRowOf.sub x y
  | shiftRight x => exact Laws.OpcodeRowOf.shiftRight x
  | subn x y => exact Laws.OpcodeRowOf.subn x y
  | shiftLeft x => exact Laws.OpcodeRowOf.shiftLeft x
  | skipRegNeq x y => exact Laws.OpcodeRowOf.skipRegNeq x y
  | setI nnn => exact Laws.OpcodeRowOf.setI nnn
  | jumpWithOffset nnn => exact Laws.OpcodeRowOf.jumpWithOffset nnn
  | setRandom x nn => exact Laws.OpcodeRowOf.setRandom x nn
  | draw x y n => exact Laws.OpcodeRowOf.draw x y n
  | skipKeyPressed x => exact Laws.OpcodeRowOf.skipKeyPressed x
  | skipKeyNotPressed x => exact Laws.OpcodeRowOf.skipKeyNotPressed x
  | getDelay x => exact Laws.OpcodeRowOf.getDelay x
  | getKey x => exact Laws.OpcodeRowOf.getKey x
  | setDelay x => exact Laws.OpcodeRowOf.setDelay x
  | setSound x => exact Laws.OpcodeRowOf.setSound x
  | addI x => exact Laws.OpcodeRowOf.addI x
  | fontAddr x => exact Laws.OpcodeRowOf.fontAddr x
  | bcd x => exact Laws.OpcodeRowOf.bcd x
  | storeRegs x => exact Laws.OpcodeRowOf.storeRegs x
  | loadRegs x => exact Laws.OpcodeRowOf.loadRegs x

/-- The rows of the shifts do not look at `Y`. -/
theorem mask_ignoresY_of_shift {i : Instr} {r : OpcodeRow} (hs : isShift i = true) (hr : r ∈ opcodeMap)
    (ht : r.tag = tagCode i) : 0xFF0F &&& r.mask = r.mask := by
  have key : ∀ r ∈ opcodeMap, r.tag = 15 ∨ r.tag = 17 → 0xFF0F &&& r.mask = r.mask := by decide
  obtain ⟨x, rfl | rfl⟩ := (isShift_iff i).mp hs
  · exact key r hr (.inl ht)
  · exact key r hr (.inr ht)

theorem opcodeRow_of_decode {w : Word} {i : Instr} (h : decode w = some i) :
    ∃ r ∈ opcodeMap, r.tag = tagCode i ∧ r.Matches w := by
  obtain ⟨r, hr, ht, hm⟩ := opcodeRow_of_encode i
  refine ⟨r, hr, ht, ?_⟩
  cases hs : isShift i with
  | false => rwa [encode_of_decode h hs] at hm
  | true =>
    rw [encode_of_decode_shift h hs, OpcodeRow.Matches, BitVec.and_assoc,
      mask_ignoresY_of_shift hs hr ht] at hm
    exact hm

/-! ## A word of a row decodes to the row's form (R85, R113) -/

/-- A field the mask keeps whole is the pattern's. -/
theorem extractLsb'_of_matches {r : OpcodeRow} {w : Word} {start len : Nat} (h : r.Matches w)
    (hm : r.mask.extractLsb' start len = BitVec.allOnes len) :
    w.extractLsb' start len = r.pattern.extractLsb' start len := by
  rw [← h, BitVec.extractLsb'_and, hm, BitVec.and_allOnes]

theorem famOf_of_matches {r : OpcodeRow} {w : Word} (h : r.Matches w) (hm : famOf r.mask = 0xF#4) :
    famOf w = famOf r.pattern :=
  extractLsb'_of_matches h hm

theorem nOf_of_matches {r : OpcodeRow} {w : Word} (h : r.Matches w) (hm : nOf r.mask = 0xF#4) :
    nOf w = nOf r.pattern :=
  extractLsb'_of_matches h hm

theorem nnOf_of_matches {r : OpcodeRow} {w : Word} (h : r.Matches w) (hm : nnOf r.mask = 0xFF#8) :
    nnOf w = nnOf r.pattern :=
  extractLsb'_of_matches h hm

/-- The form a word decodes to depends on the family alone, on `N` in the families 0x5, 0x8 and 0x9, on
`NN` in the families 0xE and 0xF, and on the whole word in family 0x0 (R84). -/
theorem tag_decode_congr {w v : Word} (hf : famOf w = famOf v)
    (h0 : (famOf v).toNat = 0x0 → w = v)
    (hn : (famOf v).toNat ∈ [0x5, 0x8, 0x9] → nOf w = nOf v)
    (hnn : 0xE ≤ (famOf v).toNat → nnOf w = nnOf v) :
    (decode w).map tagCode = (decode v).map tagCode := by
  unfold decode
  rw [hf]
  split
  case h_1 hk => rw [h0 hk]
  case h_6 hk | h_10 hk =>
    rw [hn (by simp [hk])]
    split_ifs <;> rfl
  case h_9 hk =>
    unfold decode8
    rw [hn (by simp [hk])]
    split <;> rfl
  case h_15 hk =>
    unfold decodeE
    rw [hnn hk.ge]
    split <;> rfl
  case h_16 =>
    unfold decodeF
    rw [hnn (by simp only [imp_false] at *; omega)]
    split <;> rfl
  all_goals rfl

/-- The facts of the map that settle a row by its pattern: the pattern decodes to the row's form, and the mask
keeps whole every field the form depends on. -/
theorem opcodeMap_pattern_decodes : ∀ r ∈ opcodeMap,
    (decode r.pattern).map tagCode = some r.tag ∧ famOf r.mask = 0xF#4 ∧
    ((famOf r.pattern).toNat = 0x0 → r.mask = BitVec.allOnes 16) ∧
    ((famOf r.pattern).toNat ∈ [0x5, 0x8, 0x9] → nOf r.mask = 0xF#4) ∧
    (0xE ≤ (famOf r.pattern).toNat → nnOf r.mask = 0xFF#8) := by
  decide

theorem decode_of_opcodeRow {r : OpcodeRow} {w : Word} (hr : r ∈ opcodeMap) (h : r.Matches w) :
    ∃ i, decode w = some i ∧ tagCode i = r.tag := by
  obtain ⟨hp, hf, h0, hn, hnn⟩ := opcodeMap_pattern_decodes r hr
  rw [← Option.map_eq_some_iff, ← hp]
  refine tag_decode_congr (famOf_of_matches h hf) (fun hk => ?_)
    (fun hk => nOf_of_matches h (hn hk)) (fun hk => nnOf_of_matches h (hnn hk))
  rw [← h, h0 hk, BitVec.and_allOnes]

/-! ## The words that decode to nothing (R88) -/

theorem decode0_eq_none_iff (w : Word) : decode0 w = none ↔ w.toNat ≠ 0x00E0 ∧ w.toNat ≠ 0x00EE := by
  have hE0 : w = 0x00E0#16 ↔ w.toNat = 0x00E0 := BitVec.toNat_inj.symm
  have hEE : w = 0x00EE#16 ↔ w.toNat = 0x00EE := BitVec.toNat_inj.symm
  unfold decode0
  split_ifs with h1 h2 <;> simp_all

theorem decode8_eq_none_iff (w : Word) :
    decode8 w = none ↔ w.toNat % 16 ∈ [0x8, 0x9, 0xA, 0xB, 0xC, 0xD, 0xF] := by
  rw [← nOf_toNat]
  have := (nOf w).isLt
  unfold decode8
  split
  case h_10 =>
    simp only [imp_false, List.mem_cons, List.not_mem_nil, or_false, true_iff] at *
    omega
  all_goals next hn => simp [hn]

theorem decodeE_eq_none_iff (w : Word) : decodeE w = none ↔ w.toNat % 256 ∉ [0x9E, 0xA1] := by
  rw [← nnOf_toNat]
  unfold decodeE
  split
  case h_3 h1 h2 => simpa using ⟨h1, h2⟩
  all_goals next hnn => simp [hnn]

theorem decodeF_eq_none_iff (w : Word) : decodeF w = none ↔
    w.toNat % 256 ∉ [0x07, 0x0A, 0x15, 0x18, 0x1E, 0x29, 0x33, 0x55, 0x65] := by
  rw [← nnOf_toNat]
  unfold decodeF
  split
  case h_10 => simp_all
  all_goals next hnn => simp [hnn]

theorem nOf_eq_zero_iff (w : Word) : nOf w = 0#4 ↔ w.toNat % 16 = 0 := by
  rw [← nOf_toNat, ← BitVec.toNat_inj]
  rfl

/-! ## The statements -/

/-- Settles O1, format by format. -/
theorem decodeOfEncodeIsTheInstruction : Obligations.DecodeOfEncodeIsTheInstruction :=
  decode_encode

/-- Settles O2: a shift loses its `Y`, every other form is put together again from its fields. -/
theorem encodeOfDecodeIsTheWord : Obligations.EncodeOfDecodeIsTheWord := by
  intro w i h
  split_ifs with hs
  · exact encode_of_decode_shift h ((isShift_iff i).mpr hs)
  · exact encode_of_decode h (Bool.eq_false_iff.mpr (mt (isShift_iff i).mp hs))

/-- Settles O3: to the map by the row of the form's own word, back by the row's pattern. -/
theorem decoderIsTheOpcodeMap : Obligations.DecoderIsTheOpcodeMap :=
  fun _ => ⟨fun _ => opcodeRow_of_decode, fun _ => decode_of_opcodeRow⟩

/-- Settles O4, family by family. -/
theorem illegalWordsAreThoseListed : Obligations.IllegalWordsAreThoseListed := by
  intro w
  simp only [← famOf_toNat]
  unfold decode
  split
  case h_1 hf => simp [hf, decode0_eq_none_iff]
  case h_6 hf | h_10 hf => simp [hf, nOf_eq_zero_iff]
  case h_9 hf => simp [hf, decode8_eq_none_iff]
  case h_15 hf => simp [hf, decodeE_eq_none_iff]
  case h_16 =>
    have := (famOf w).isLt
    have hf : (famOf w).toNat = 15 := by
      simp only [imp_false] at *
      omega
    simp [hf, decodeF_eq_none_iff]
  all_goals next hf => simp [hf]

/-- Settles O5: each word is decoded. -/
theorem workedDecodings : Obligations.WorkedDecodings := by
  unfold Obligations.WorkedDecodings
  decide

end Sys2Proof
end

section
/-! # Ports family: what each output port of the decoder carries (R111, R112) -/

namespace Sys2Proof

/-! ## The operand ports are the fields of the word (R82, R111) -/

@[simp] theorem decoderPorts_x (w : Word) : (decoderPorts w).x = regBits (xOf w) := rfl
@[simp] theorem decoderPorts_y (w : Word) : (decoderPorts w).y = regBits (yOf w) := rfl
@[simp] theorem decoderPorts_n (w : Word) : (decoderPorts w).n = nOf w := rfl
@[simp] theorem decoderPorts_nn (w : Word) : (decoderPorts w).nn = nnOf w := rfl
@[simp] theorem decoderPorts_nnn (w : Word) : (decoderPorts w).nnn = nnnOf w := rfl

/-! ## The ports `valid` and `tag` follow the decoder (R112) -/

theorem decoderPorts_valid_iff (w : Word) : (decoderPorts w).valid = true ↔ ∃ i, decode w = some i :=
  Option.isSome_iff_exists

theorem decoderPorts_tag_of_decode {w : Word} {i : Instr} (h : decode w = some i) :
    (decoderPorts w).tag = tagCode i := by
  simp only [decoderPorts, h]

/-! ## The statement -/

/-- Settles O6, port by port: an operand port is a field of the word, whose value as a number is known. -/
theorem decoderPortsCarryTheSlices : Obligations.DecoderPortsCarryTheSlices := by
  intro w
  refine ⟨?x, ?y, ?n, ?nn, ?nnn, decoderPorts_valid_iff w, fun _ => decoderPorts_tag_of_decode⟩
  case x => rw [decoderPorts_x, regBits_toNat, xOf_val]
  case y => rw [decoderPorts_y, regBits_toNat, yOf_val]
  case n => rw [decoderPorts_n, nOf_toNat]
  case nn => rw [decoderPorts_nn, nnOf_toNat]
  case nnn => rw [decoderPorts_nnn, nnnOf_toNat]

end Sys2Proof
end

section
/-! # Step family: what one step does, and how long a jump to itself runs (R131, R133, R134, R137)

A step of a running machine completes its instruction or takes a fault (`running_step_cases`); the statements
about one step are read off these two cases. A jump to its own address leaves a state that meets the same
hypotheses, so its run is an induction on the number of steps. -/

namespace Sys2Proof.Machine

/-! ## One step of a running machine -/

/-- A step of a running machine completes the decoded instruction, or it takes a fault (R131, R133). -/
theorem running_step_cases {s t : State} (hf : s.fault = none) (h : step s = .next t) :
    (∃ i, decode s.wordAtPc = some i ∧ Completes i s t) ∨ ∃ f w, t = s.takeFault f w := by
  rcases step_next_cases h with ⟨hh, _⟩ | ⟨_, _, ht⟩ | ⟨_, _, _, ht⟩ | ⟨_, _, i, hd, hx⟩
  · exact absurd hf hh
  · exact .inr ⟨_, _, ht⟩
  · exact .inr ⟨_, _, ht⟩
  · rcases exec_next_cases hx with hc | ⟨f, _, ht⟩
    · exact .inl ⟨i, hd, hc⟩
    · exact .inr ⟨f, _, ht⟩

theorem step_of_decode {s : State} {i : Instr} (hf : s.fault = none) (hpc : s.pc.toNat ≤ 0xFFE)
    (hd : decode s.wordAtPc = some i) : step s = exec i s := by
  have hmem : Config.memSize = 4096 := rfl
  rw [s.wordAtPc_eq] at hd
  rcases step_cases s with ⟨hh, _⟩ | ⟨_, hout, _⟩ | ⟨_, _, w, rfl, ⟨hn, _⟩ | ⟨j, hj, he⟩⟩
  · exact absurd hf hh
  · omega
  · rw [hn] at hd
    cases hd
  · obtain rfl := Option.some.inj (hj.symm.trans hd)
    exact he

/-! ## A jump to its own address (R137) -/

theorem zextAddr_eq_of_toNat_eq {v : Word} {nnn : Addr} (h : v.toNat = nnn.toNat) :
    zextAddr nnn = v := by
  apply BitVec.eq_of_toNat_eq
  have := nnn.isLt
  rw [zextAddr, BitVec.toNat_setWidth]
  omega

theorem core_run_succ {M : Host.Core} {s t : M.State} (h : M.step s = .next t) (k : Nat) :
    M.run (k + 1) s = M.run k t := by
  rw [Host.Core.run, h]

/-- The state `s` stands at a `jump` to its own address. -/
structure AtSelfJump (s : State) : Prop where
  running : s.fault = none
  inMemory : s.pc.toNat ≤ 0xFFE
  decodes : ∃ nnn, decode s.wordAtPc = some (.jump nnn) ∧ zextAddr nnn = s.pc

section
variable {s : State}

/-- The fetch-advance is undone, so that the step makes the tick alone. -/
theorem AtSelfJump.step_eq (h : AtSelfJump s) : step s = .next (s.enter.setPc s.pc) := by
  obtain ⟨nnn, hd, hpc⟩ := h.decodes
  rw [step_of_decode h.running h.inMemory hd, ← hpc]
  rfl

/-- The tick touches neither the latch nor `pc` nor memory. -/
theorem AtSelfJump.next (h : AtSelfJump s) : AtSelfJump (s.enter.setPc s.pc) :=
  ⟨h.running, h.inMemory, h.decodes⟩

theorem AtSelfJump.run (h : AtSelfJump s) (k : Nat) :
    ∃ t : State, core.run k s = .next t ∧ t = { s with DT := t.DT, ST := t.ST } ∧
      t.DT.toNat = s.DT.toNat - k ∧ t.ST.toNat = s.ST.toNat - k := by
  induction k generalizing s with
  | zero => exact ⟨s, rfl, rfl, rfl, rfl⟩
  | succ k ih =>
    obtain ⟨t, hrun, hframe, hDT, hST⟩ := ih h.next
    rw [State.setPc_DT, State.enter_DT, tickTimer_toNat] at hDT
    rw [State.setPc_ST, State.enter_ST, tickTimer_toNat] at hST
    exact ⟨t, (core_run_succ (M := core) h.step_eq k).trans hrun, hframe, by omega, by omega⟩

end

/-! ## The statements -/

/-- Settles O7: the fetched word is the word in memory at `pc`. -/
theorem stepRunsTheDecodedInstruction : Obligations.StepRunsTheDecodedInstruction :=
  fun _ _ hf hpc hd => step_of_decode hf hpc hd

/-- Settles O11: a completed instruction keeps the latch clear, and a fault sets the latch alone. -/
theorem faultingStepCommitsNothing : Obligations.FaultingStepCommitsNothing := by
  intro s t hf h
  rcases running_step_cases hf h with ⟨i, _, hc⟩ | ⟨f, w, rfl⟩
  · exact .inl (hc.frame.fault.trans hf)
  · exact .inr ⟨⟨f, s.pc, w⟩, rfl, rfl⟩

/-- Settles O12: the frame of a completed instruction has both ticks; a fault and a halted machine leave the
timers alone. -/
theorem timersTickOncePerCompletedStep : Obligations.TimersTickOncePerCompletedStep := by
  intro s t h
  by_cases hf : s.fault = none
  case neg =>
    obtain rfl := next_unique h (step_of_halted hf)
    exact ⟨fun hrun => absurd hrun hf, fun _ => ⟨rfl, rfl⟩⟩
  rcases running_step_cases hf h with ⟨i, hd, hc⟩ | ⟨f, w, rfl⟩
  · have htf : t.fault = none := hc.frame.fault.trans hf
    refine ⟨fun _ _ => ⟨fun hne => ?delay, fun hne => ?sound⟩, fun hor => ?halted⟩
    case delay => exact hc.frame.delay fun x hi => hne x (hi ▸ hd)
    case sound => exact hc.frame.sound fun x hi => hne x (hi ▸ hd)
    case halted => exact absurd hor (by simp [hf, htf])
  · exact ⟨fun _ htf => (Option.some_ne_none _ htf).elim, fun _ => ⟨rfl, rfl⟩⟩

/-- Settles O21: a machine at a jump to its own address is still there after every step. -/
theorem jumpToItselfOnlyRunsTheTimersDown : Obligations.JumpToItselfOnlyRunsTheTimersDown := by
  intro s nnn hf hpc hle hd
  have hself : AtSelfJump s := ⟨hf, hpc ▸ hle, nnn, hd, zextAddr_eq_of_toNat_eq hpc⟩
  exact hself.run

end Sys2Proof.Machine
end

section
/-! # Control-flow family: where each transfer of control leads (R151 to R158)

The stack instructions have their equations `exec_ret_of_cons` and `exec_call_of_room`; the four skips are one
statement about the fetch-advance followed by `State.skipIf` (`exec_skipIf_ends`), read for a test of equality
and for its negation. -/

namespace Sys2Proof.Machine

/-! ## The address a jump goes to, as a number (R82, R154) -/

theorem zextAddr_toNat (nnn : Addr) : (zextAddr nnn).toNat = nnn.toNat :=
  BitVec.toNat_setWidth_of_le (by decide)

theorem zextByte_toNat (v : Byte) : (zextByte v).toNat = v.toNat :=
  BitVec.toNat_setWidth_of_le (by decide)

/-- A 12-bit address and a byte add up without a carry out of 16 bits. -/
theorem jumpOffset_toNat (nnn : Addr) (v : Byte) :
    (zextAddr nnn + zextByte v).toNat = nnn.toNat + v.toNat := by
  have hfits : nnn.toNat + v.toNat < 2 ^ 16 := by
    have := nnn.isLt
    have := v.isLt
    omega
  rw [BitVec.toNat_add, zextAddr_toNat, zextByte_toNat, Nat.mod_eq_of_lt hfits]

/-! ## A skip (R155 to R158) -/

theorem State.enter_skipIf_pc (s : State) (c : Bool) :
    (s.enter.skipIf c).pc = if c then s.pc + 4 else s.pc + 2 := by
  have h4 : s.pc + 2 + 2 = s.pc + 4 := BitVec.add_assoc s.pc 2 2
  rw [State.skipIf_pc, State.enter_pc, h4]

section
variable {i : Instr} {s : State}

theorem exec_skipIf_ends {c : Bool} (h : exec i s = .next (s.enter.skipIf c))
    (hp : mayWritePc i = true) :
    ∃ t, exec i s = .next t ∧ FrameKept i s t ∧ t.pc = if c then s.pc + 4 else s.pc + 2 :=
  ⟨_, h, (frameKept_enter i s).skipIf hp c, s.enter_skipIf_pc c⟩

theorem exec_skipIf_beq_ends {a b : Byte} (h : exec i s = .next (s.enter.skipIf (a == b)))
    (hp : mayWritePc i = true) :
    ∃ t, exec i s = .next t ∧ FrameKept i s t ∧ t.pc = if a = b then s.pc + 4 else s.pc + 2 := by
  simpa only [beq_iff_eq] using exec_skipIf_ends h hp

theorem exec_skipIf_bne_ends {a b : Byte} (h : exec i s = .next (s.enter.skipIf (a != b)))
    (hp : mayWritePc i = true) :
    ∃ t, exec i s = .next t ∧ FrameKept i s t ∧ t.pc = if a = b then s.pc + 2 else s.pc + 4 := by
  simpa only [bne_iff_ne, ne_eq, ite_not] using exec_skipIf_ends h hp

end

/-! ## The statements -/

/-- Settles O18: a call that completes found room, so the address after it is on top of the stack. -/
theorem returnUndoesCall : Obligations.ReturnUndoesCall := by
  intro s t nnn hf h htf
  rcases Nat.lt_or_ge s.stack.length Config.stackDepth with hroom | hfull
  · obtain rfl := next_unique h (exec_call_of_room hroom)
    exact ⟨_, exec_ret_of_cons rfl, hf, rfl, rfl⟩
  · obtain rfl := next_unique h (exec_call_of_full hfull)
    exact (Option.some_ne_none _ htf).elim

/-- Settles O13: the stack and `pc` are the marked writes of `return`. -/
theorem returnPopsIntoPc : Obligations.ReturnPopsIntoPc := by
  intro s v rest hst
  have hk := frameKept_enter .ret s
  exact ⟨_, exec_ret_of_cons hst, (hk.setStack rfl rest).setPc rfl v, rfl, rfl⟩

/-- Settles O14: the address zero-extended is the same number. -/
theorem jumpSetsPc : Obligations.JumpSetsPc := by
  intro s nnn
  exact ⟨_, rfl, (frameKept_enter _ s).setPc rfl _, zextAddr_toNat nnn⟩

/-- Settles O15: below the depth of 16 the push has room. -/
theorem callPushesTheAddressAfterIt : Obligations.CallPushesTheAddressAfterIt := by
  intro s nnn hroom
  have hk := frameKept_enter (.call nnn) s
  exact ⟨_, exec_call_of_room hroom, (hk.setStack rfl _).setPc rfl _, zextAddr_toNat nnn, rfl⟩

/-- Settles O17: the sum fits in 16 bits, so nothing of it is lost. -/
theorem jumpWithOffsetAddsVZero : Obligations.JumpWithOffsetAddsVZero := by
  intro s nnn
  exact ⟨_, rfl, (frameKept_enter _ s).setPc rfl _, jumpOffset_toNat nnn (s.reg 0)⟩

/-- Settles O19: two skips, on an equality and on its negation. -/
theorem immediateSkips : Obligations.ImmediateSkips :=
  fun _ _ _ => ⟨exec_skipIf_beq_ends rfl rfl, exec_skipIf_bne_ends rfl rfl⟩

/-- Settles O20: the two skips of O19, between two registers. -/
theorem registerSkips : Obligations.RegisterSkips :=
  fun _ _ _ => ⟨exec_skipIf_beq_ends rfl rfl, exec_skipIf_bne_ends rfl rfl⟩

end Sys2Proof.Machine
end

section
/-! # Arithmetic family: what each instruction leaves in its register and in `VF` (R170 to R183)

An instruction of this family writes one register, or one register and then the flag, after the fetch-advance.
Each of these two endings is one lemma; an obligation then names the value written. -/

namespace Sys2Proof.Machine

/-! ## The register just written -/

@[simp] theorem State.reg_setReg_same (s : State) (x : Reg) (v : Byte) : (s.setReg x v).reg x = v := by
  rw [State.reg_setReg, if_pos rfl]

@[simp] theorem State.reg_setRegAndFlag_VF (s : State) (x : Reg) (p : Byte × Bool) :
    (s.setRegAndFlag x p).reg 15 = flagByte p.2 := by
  rw [State.reg_setRegAndFlag, if_pos rfl]

theorem State.reg_setRegAndFlag_result (s : State) {x : Reg} (p : Byte × Bool) (hx : x ≠ 15) :
    (s.setRegAndFlag x p).reg x = p.1 := by
  rw [State.reg_setRegAndFlag, if_neg hx, if_pos rfl]

/-! ## The flag as a number (R177 to R181) -/

theorem addFlag_flag_toNat (a b : Byte) :
    (flagByte (addFlag a b).2).toNat = if 255 < a.toNat + b.toNat then 1 else 0 := by
  simp only [flagByte_toNat, addFlag, decide_eq_true_eq]

theorem subFlag_flag_toNat (a b : Byte) :
    (flagByte (subFlag a b).2).toNat = if b.toNat ≤ a.toNat then 1 else 0 := by
  simp only [flagByte_toNat, subFlag, decide_eq_true_eq]

theorem shiftRightFlag_toNat (a : Byte) : (shiftRightFlag a).1.toNat = a.toNat / 2 := by
  have := a.isLt
  simp only [shiftRightFlag, BitVec.toNat_ofNat]
  omega

theorem shiftLeftFlag_toNat (a : Byte) : (shiftLeftFlag a).1.toNat = 2 * a.toNat % 256 :=
  BitVec.toNat_ofNat _ _

theorem flagByte_toNat_eq_toNat (c : Bool) : (flagByte c).toNat = c.toNat := by
  cases c <;> rfl

/-- The bit a shift to the right loses is the remainder of its division by 2. -/
theorem shiftRightFlag_flag_toNat (a : Byte) : (flagByte (shiftRightFlag a).2).toNat = a.toNat % 2 := by
  rw [flagByte_toNat_eq_toNat, shiftRightFlag, BitVec.getLsbD, Nat.toNat_testBit, pow_zero, Nat.div_one]

/-- The bit a shift to the left loses is the top bit, so it says whether the byte is 128 or more. -/
theorem shiftLeftFlag_flag_toNat (a : Byte) : (flagByte (shiftLeftFlag a).2).toNat = a.toNat / 128 := by
  have := a.isLt
  rw [flagByte_toNat_eq_toNat, shiftLeftFlag, BitVec.getLsbD, Nat.toNat_testBit]
  omega

/-! ## The two endings (R170) -/

section
variable {i : Instr} {s : State} {x : Reg}

/-- An instruction that writes `v` into `Vx` and nothing else. -/
theorem exec_setReg_ends {v : Byte} (h : exec i s = .next (s.enter.setReg x v))
    (hw : mayWriteReg i x = true) : ∃ t, exec i s = .next t ∧ FrameKept i s t ∧ t.reg x = v :=
  ⟨_, h, (frameKept_enter i s).setReg hw v, State.reg_setReg_same _ x v⟩

/-- A flag writer, whose result is the number `r` and whose flag is the number `f`: with `X = 15` the flag is
what stays (D13). -/
theorem exec_setRegAndFlag_ends {p : Byte × Bool} {r f : Nat}
    (h : exec i s = .next (s.enter.setRegAndFlag x p))
    (hw : ∀ k, mayWriteReg i k = (k == x || k == 15))
    (hr : p.1.toNat = r) (hf : (flagByte p.2).toNat = f) :
    ∃ t, exec i s = .next t ∧ FrameKept i s t ∧ (x ≠ 15 → (t.reg x).toNat = r) ∧
      (t.reg 15).toNat = f := by
  have hwx : mayWriteReg i x = true := by simp [hw]
  have hwf : mayWriteReg i 15 = true := by simp [hw]
  refine ⟨_, h, (frameKept_enter i s).setRegAndFlag hwx hwf p, fun hx => ?_, ?_⟩
  · rw [State.reg_setRegAndFlag_result _ p hx, hr]
  · rw [State.reg_setRegAndFlag_VF, hf]

end

/-! ## The statements -/

/-- Settles O22: one register is written, with the operand or with the other register's value. -/
theorem setAndCopy : Obligations.SetAndCopy :=
  fun _ x _ _ =>
    ⟨exec_setReg_ends rfl (beq_self_eq_true x), exec_setReg_ends rfl (beq_self_eq_true x)⟩

/-- Settles O23: the sum of `add` without its carry. -/
theorem addImmediateWraps : Obligations.AddImmediateWraps := by
  intro s x nn
  obtain ⟨t, h, hk, hv⟩ := exec_setReg_ends (i := .addImm x nn) (s := s) rfl (beq_self_eq_true x)
  exact ⟨t, h, hk, hv ▸ addFlag_toNat (s.reg x) nn⟩

/-- Settles O24: the bits of the value written are the operation of the sources' bits. -/
theorem logicalOperations : Obligations.LogicalOperations := by
  intro s x y
  have hw := beq_self_eq_true x
  refine ⟨?_, ?_, ?_⟩
  · obtain ⟨t, h, hk, hv⟩ := exec_setReg_ends (i := .or x y) (s := s) rfl hw
    exact ⟨t, h, hk, fun _ => hv ▸ BitVec.getLsbD_or⟩
  · obtain ⟨t, h, hk, hv⟩ := exec_setReg_ends (i := .and x y) (s := s) rfl hw
    exact ⟨t, h, hk, fun _ => hv ▸ BitVec.getLsbD_and⟩
  · obtain ⟨t, h, hk, hv⟩ := exec_setReg_ends (i := .xor x y) (s := s) rfl hw
    exact ⟨t, h, hk, fun _ => hv ▸ BitVec.getLsbD_xor⟩

/-- Settles O25: the flag writer whose result is the sum and whose flag is its carry. -/
theorem addSetsSumAndCarry : Obligations.AddSetsSumAndCarry :=
  fun _ _ _ =>
    exec_setRegAndFlag_ends rfl (fun _ => rfl) (addFlag_toNat _ _) (addFlag_flag_toNat _ _)

/-- Settles O26: the two subtractions are one computation with its operands exchanged. -/
theorem subtractSetsDifferenceAndNotBorrow : Obligations.SubtractSetsDifferenceAndNotBorrow :=
  fun _ _ _ =>
    ⟨exec_setRegAndFlag_ends rfl (fun _ => rfl) (subFlag_toNat _ _) (subFlag_flag_toNat _ _),
      exec_setRegAndFlag_ends rfl (fun _ => rfl) (subFlag_toNat _ _) (subFlag_flag_toNat _ _)⟩

/-- Settles O27: the flag writers whose flag is the bit at the end the shift moves towards. -/
theorem shiftsByOnePosition : Obligations.ShiftsByOnePosition :=
  fun _ _ =>
    ⟨exec_setRegAndFlag_ends rfl (fun _ => rfl) (shiftRightFlag_toNat _) (shiftRightFlag_flag_toNat _),
      exec_setRegAndFlag_ends rfl (fun _ => rfl) (shiftLeftFlag_toNat _) (shiftLeftFlag_flag_toNat _)⟩

/-- Settles O28: a bit of the masked byte is a bit of the mask, whatever byte the draw gives. -/
theorem setRandomMasksAFreeByte : Obligations.SetRandomMasksAFreeByte := by
  intro s x nn
  have hk := (frameKept_enter (.setRandom x nn) s).drawRandom ⟨x, nn, rfl⟩
  refine ⟨_, rfl, hk.setReg (beq_self_eq_true x) _, State.reg_setReg_same _ x _, rfl, fun k hbit => ?_⟩
  rw [State.reg_setReg_same, BitVec.getLsbD_and, Bool.and_eq_true] at hbit
  exact hbit.2

end Sys2Proof.Machine
end

section
/-! # Index and memory family: what each instruction leaves in `I`, in memory and in the registers (R200 to
R206)

An instruction of this family writes `I`, stores a run of bytes from `I` on, or loads one into the registers.
The first two endings are one lemma each. A load from where a store has just written reads the registers back,
so the round trip rests on the effects of the two block instructions and on their frames. -/

namespace Sys2Proof.Machine

/-! ## The values written, as numbers (R202 to R204) -/

theorem indexSum_toNat (a : Word) (v : Byte) :
    (a + zextByte v).toNat = (a.toNat + v.toNat) % 65536 := by
  rw [BitVec.toNat_add, zextByte_toNat]

/-- The address of the last glyph fits in 16 bits. -/
theorem State.glyphAddr_toNat (s : State) (x : Reg) :
    (s.glyphAddr x).toNat = 0x050 + 5 * ((s.reg x).toNat % 16) := by
  rw [State.glyphAddr, State.lowNibble_toNat, BitVec.toNat_ofNat, Config.fontBase, Config.glyphStride]
  omega

theorem bcdDigits_hundreds_toNat (v : Byte) : ((bcdDigits v).getD 0 0).toNat = v.toNat / 100 := by
  have := v.isLt
  rw [bcdDigits, List.getD_cons_zero, BitVec.toNat_ofNat]
  omega

theorem bcdDigits_tens_toNat (v : Byte) : ((bcdDigits v).getD 1 0).toNat = v.toNat / 10 % 10 := by
  rw [bcdDigits, List.getD_cons_succ, List.getD_cons_zero, BitVec.toNat_ofNat]
  omega

theorem bcdDigits_ones_toNat (v : Byte) : ((bcdDigits v).getD 2 0).toNat = v.toNat % 10 := by
  rw [bcdDigits, List.getD_cons_succ, List.getD_cons_succ, List.getD_cons_zero, BitVec.toNat_ofNat]
  omega

/-! ## Runs of bytes and the register file -/

/-- Byte `k` of a run written at `a` stands at `a + k` (R53). -/
theorem Memory.read_writeBytes_add (m : Memory) (a : Nat) {bs : List Byte} {k : Nat}
    (hk : k < bs.length) : (m.writeBytes a bs).read (a + k) = bs.getD k 0 := by
  have hin : a ≤ a + k ∧ a + k < a + bs.length := by omega
  rw [Memory.read_writeBytes, if_pos hin, Nat.add_sub_cancel_left]

theorem State.V_eq_of_reg_eq {s t : State} (h : ∀ k, s.reg k = t.reg k) : s.V = t.V :=
  Vector.ext fun k hk => h ⟨k, hk⟩

/-! ## The endings (R200) -/

section
variable {i : Instr} {s : State} {x : Reg}

/-- An instruction that writes the number `n` into `I` and nothing else. -/
theorem exec_setI_ends {v : Word} {n : Nat} (h : exec i s = .next (s.enter.setI v))
    (hw : mayWriteI i = true) (hv : v.toNat = n) :
    ∃ t, exec i s = .next t ∧ FrameKept i s t ∧ t.I.toNat = n :=
  ⟨_, h, (frameKept_enter i s).setI hw v, hv⟩

/-- An instruction that stores the bytes `bs` from `I` on and does nothing else. -/
theorem exec_store_ends {bs : List Byte} (hl : bs.length = storeLength i)
    (h : exec i s = .next (s.enter.setMem (s.mem.writeBytes s.I.toNat bs))) :
    ∃ t, exec i s = .next t ∧ FrameKept i s t ∧
      ∀ k < storeLength i, t.mem.read (s.I.toNat + k) = bs.getD k 0 :=
  ⟨_, h, (frameKept_enter i s).writeBytes hl,
    fun _ hk => Memory.read_writeBytes_add s.mem s.I.toNat (hl ▸ hk)⟩

/-- A `store-regs` whose block fits leaves `Vk` at `I + k` (R205). -/
theorem exec_storeRegs_ends (hfit : AccessFits (.storeRegs x) s) :
    ∃ t, exec (.storeRegs x) s = .next t ∧ FrameKept (.storeRegs x) s t ∧
      ∀ k ≤ x, t.mem.read (s.I.toNat + k.val) = s.reg k := by
  obtain ⟨t, h, hframe, hread⟩ := exec_store_ends (s.length_regBlock x) (exec_storeRegs hfit)
  refine ⟨t, h, hframe, fun k hk => ?_⟩
  rw [hread k.val (Nat.lt_succ_of_le hk), State.getD_regBlock s x k hk]

/-- A `load-regs` whose block fits leaves the byte at `I + k` in `Vk` (R206). -/
theorem exec_loadRegs_ends (hfit : AccessFits (.loadRegs x) s) :
    ∃ t, exec (.loadRegs x) s = .next t ∧ FrameKept (.loadRegs x) s t ∧
      ∀ k ≤ x, t.reg k = s.mem.read (s.I.toNat + k.val) := by
  have hlen := Memory.length_readBytes (x.val + 1) s.mem s.I.toNat
  refine ⟨_, exec_loadRegs hfit, (frameKept_enter _ s).setRegBlock fun k hlt => ?_, fun k hk => ?_⟩
  · rw [hlen] at hlt
    exact decide_eq_true (Nat.le_of_lt_succ hlt)
  · have hlt : k.val < x.val + 1 := Nat.lt_succ_of_le hk
    rw [State.reg_setRegBlock, if_pos (hlen.symm ▸ hlt), Memory.getD_readBytes _ _ _ _ hlt]

end

/-! ## The statements -/

/-- Settles O38: `I` is kept, so the load reads the block just stored; the registers above `VX` are in the
frame of both. -/
theorem loadUndoesStore : Obligations.LoadUndoesStore := by
  intro s t u x hf hstore htf hload
  by_cases hfit : AccessFits (.storeRegs x) s
  case neg =>
    obtain rfl := next_unique hstore (exec_of_not_accessFits hfit)
    exact (Option.some_ne_none _ htf).elim
  obtain ⟨_, hstore', hframeS, hmem⟩ := exec_storeRegs_ends hfit
  obtain rfl := next_unique hstore hstore'
  have hI : t.I = s.I := hframeS.index rfl
  have hfitL : AccessFits (.loadRegs x) t := by rwa [AccessFits, hI]
  obtain ⟨_, hload', hframeL, hreg⟩ := exec_loadRegs_ends hfitL
  obtain rfl := next_unique hload hload'
  refine ⟨hframeL.fault.trans htf, State.V_eq_of_reg_eq fun k => ?_⟩
  by_cases hk : k ≤ x
  · rw [hreg k hk, hI, hmem k hk]
  · rw [hframeL.regs k (decide_eq_false hk), hframeS.regs k rfl]

/-- Settles O31: the address zero-extended is the same number. -/
theorem setIndex : Obligations.SetIndex :=
  fun _ nnn => exec_setI_ends rfl rfl (zextAddr_toNat nnn)

/-- Settles O32: the sum of `I` and the register zero-extended, in 16 bits. -/
theorem addToIndexWraps : Obligations.AddToIndexWraps :=
  fun s x => exec_setI_ends rfl rfl (indexSum_toNat s.I (s.reg x))

/-- Settles O33: the address written is the glyph's. -/
theorem fontAddress : Obligations.FontAddress :=
  fun s x => exec_setI_ends rfl rfl (s.glyphAddr_toNat x)

/-- Settles O34: the three bytes of the run stored are the three digits. -/
theorem bcdStoresTheDigits : Obligations.BcdStoresTheDigits := by
  intro s x hin
  obtain ⟨t, h, hframe, hread⟩ := exec_store_ends rfl (exec_bcd (.inr hin))
  rw [show storeLength (.bcd x) = 3 from rfl] at hread
  refine ⟨t, h, hframe, ?hundreds, ?tens, ?ones⟩
  case hundreds => exact hread 0 (by decide) ▸ bcdDigits_hundreds_toNat (s.reg x)
  case tens => exact hread 1 (by decide) ▸ bcdDigits_tens_toNat (s.reg x)
  case ones => exact hread 2 (by decide) ▸ bcdDigits_ones_toNat (s.reg x)

/-- Settles O35: inside memory the store completes. -/
theorem storeRegistersWritesTheBlock : Obligations.StoreRegistersWritesTheBlock :=
  fun _ _ hin => exec_storeRegs_ends (.inr hin)

/-- Settles O36: inside memory the load completes. -/
theorem loadRegistersReadsTheBlock : Obligations.LoadRegistersReadsTheBlock :=
  fun _ _ hin => exec_loadRegs_ends (.inr hin)

end Sys2Proof.Machine
end

section
/-! # Display family: what a clear and a blit leave on the grid and in `VF` (R222 to R229)

A blit goes cell by cell, then row by row, and each part of it does one thing: it turns over the cells of a
region, and reports a collision if one of them was lit. `TurnsOver` says so of a region. Parts whose regions do
not meet compose into their union, so the blit of a sprite turns over the region the sprite covers. -/

namespace Sys2Proof.Machine

/-! ## Turning over the cells of a region (R223, R224) -/

/-- From `a` to `b` (a grid with its collision bit) exactly the cells of region `P` are turned over, and the
collision bit is raised exactly if one of them was lit. Cells outside the grid do not count (R225). -/
structure TurnsOver (P : Nat → Nat → Bool) (a b : Grid × Bool) : Prop where
  cells : ∀ u v, u < 64 → v < 32 → b.1.cell u v = (a.1.cell u v ^^ P u v)
  collision : b.2 = true ↔
    a.2 = true ∨ ∃ u v, u < 64 ∧ v < 32 ∧ a.1.cell u v = true ∧ P u v = true

section
variable {P Q : Nat → Nat → Bool} {a b c : Grid × Bool}

/-- Nothing is turned over when the region has no cell inside the grid. -/
theorem TurnsOver.refl (h : ∀ u v, u < 64 → v < 32 → P u v = false) (a : Grid × Bool) :
    TurnsOver P a a where
  cells u v hu hv := by rw [h u v hu hv, Bool.xor_false]
  collision := by
    refine ⟨.inl, fun hc => hc.elim id ?_⟩
    rintro ⟨u, v, hu, hv, -, hP⟩
    exact absurd hP (Bool.eq_false_iff.mp (h u v hu hv))

theorem TurnsOver.congr (hab : TurnsOver P a b) (h : ∀ u v, P u v = Q u v) : TurnsOver Q a b := by
  obtain rfl : P = Q := funext₂ h
  exact hab

/-- Regions that do not meet are turned over one after the other: the second finds its cells as they were. -/
theorem TurnsOver.trans (hab : TurnsOver P a b) (hbc : TurnsOver Q b c)
    (hdisj : ∀ u v, P u v = true → Q u v = false) : TurnsOver (fun u v => P u v || Q u v) a c where
  cells u v hu hv := by
    have hd := hdisj u v
    rw [hbc.cells u v hu hv, hab.cells u v hu hv]
    cases hP : P u v
    · simp
    · simp [hd hP]
  collision := by
    have hkept : ∀ u v, u < 64 → v < 32 → Q u v = true → b.1.cell u v = a.1.cell u v := by
      intro u v hu hv hQ
      have hP : P u v = false := Bool.eq_false_iff.mpr fun hP => by simp [hdisj u v hP] at hQ
      rw [hab.cells u v hu hv, hP, Bool.xor_false]
    rw [hbc.collision, hab.collision]
    constructor
    · rintro ((h | ⟨u, v, hu, hv, hlit, hP⟩) | ⟨u, v, hu, hv, hlit, hQ⟩)
      · exact .inl h
      · exact .inr ⟨u, v, hu, hv, hlit, by rw [hP, Bool.true_or]⟩
      · exact .inr ⟨u, v, hu, hv, hkept u v hu hv hQ ▸ hlit, by rw [hQ, Bool.or_true]⟩
    · rintro (h | ⟨u, v, hu, hv, hlit, hPQ⟩)
      · exact .inl (.inl h)
      · rcases (Bool.or_eq_true _ _).mp hPQ with hP | hQ
        · exact .inl (.inr ⟨u, v, hu, hv, hlit, hP⟩)
        · exact .inr ⟨u, v, hu, hv, (hkept u v hu hv hQ).trans hlit, hQ⟩

end

/-! ## The blit, part by part (R223, R225) -/

/-- The place `(u, v)` lies in the rectangle of a sprite of height `n` that starts at `(x0, y0)` (R223). -/
structure InRectangle (x0 y0 n u v : Nat) : Prop where
  left : x0 ≤ u
  right : u < x0 + 8
  top : y0 ≤ v
  bottom : v < y0 + n

theorem spriteCovers_bounds {x0 y0 u v : Nat} {rows : List Byte}
    (h : spriteCovers x0 y0 rows u v = true) : InRectangle x0 y0 rows.length u v := by
  obtain ⟨hin, -⟩ := (Bool.and_eq_true _ _).mp h
  obtain ⟨hl, hr, ht, hb⟩ := of_decide_eq_true hin
  exact ⟨hl, hr, ht, hb⟩

theorem spriteCovers_nil (x0 y0 u v : Nat) : spriteCovers x0 y0 [] u v = false := by
  simp [spriteCovers]

/-- The cells a sprite covers are those of its first row and those of the sprite of the other rows. -/
theorem spriteCovers_cons (x0 yy : Nat) (row : Byte) (rows : List Byte) (u v : Nat) :
    spriteCovers x0 yy (row :: rows) u v =
      (spriteCovers x0 yy [row] u v || spriteCovers x0 (yy + 1) rows u v) := by
  rcases Nat.lt_trichotomy v yy with hv | rfl | hv
  · simp [spriteCovers, show ¬ yy ≤ v by omega, show ¬ yy + 1 ≤ v by omega]
  · simp [spriteCovers]
  · obtain ⟨d, rfl⟩ : ∃ d, v = yy + 1 + d := ⟨v - (yy + 1), by omega⟩
    have hd : yy + 1 + d - yy = d + 1 := by omega
    have hlt : yy + 1 + d < yy + (rows.length + 1) ↔ d < rows.length := by omega
    simp [spriteCovers, hd, hlt, show yy ≤ yy + 1 + d by omega]

/-- The cell under column `c` of a sprite row, if the row has its bit set there. -/
def columnCovers (x0 yy : Nat) (row : Byte) (c u v : Nat) : Bool :=
  decide (u = x0 + c ∧ v = yy) && row.getLsbD (7 - c)

theorem blitCell_turnsOver (x0 yy : Nat) (row : Byte) (acc : Grid × Bool) (c : Nat) :
    TurnsOver (columnCovers x0 yy row c) acc (blitCell x0 yy row acc c) := by
  unfold blitCell
  split
  case isFalse hout =>
    refine .refl (fun u v hu hv => Bool.eq_false_iff.mpr fun hP => hout ?_) acc
    simp only [columnCovers, Bool.and_eq_true, decide_eq_true_eq] at hP
    obtain ⟨⟨rfl, rfl⟩, hbit⟩ := hP
    exact ⟨hv, hu, hbit⟩
  case isTrue hin =>
    obtain ⟨hy, hx, hbit⟩ := hin
    have hP : ∀ u v, columnCovers x0 yy row c u v = decide (u = x0 + c ∧ v = yy) := fun u v => by
      rw [columnCovers, hbit, Bool.and_true]
    refine ⟨fun u v _ _ => ?_, ?_⟩
    · rw [Grid.cell_flip _ hx hy, hP]
      split
      case isTrue h => simp [h]
      case isFalse h => simp [h]
    · simp only [hP, Bool.or_eq_true, decide_eq_true_eq]
      refine or_congr_right ⟨fun hlit => ⟨_, _, hx, hy, hlit, rfl, rfl⟩, ?_⟩
      rintro ⟨_, _, -, -, hlit, rfl, rfl⟩
      exact hlit

theorem columnCovers_of_ne {x0 yy c u v : Nat} {row : Byte} (h : u ≠ x0 + c) :
    columnCovers x0 yy row c u v = false := by
  simp [columnCovers, h]

/-- A sprite of one row covers, in the grid's column under column `c`, what that column covers. -/
theorem spriteCovers_column (x0 yy : Nat) (row : Byte) {c : Nat} (hc : c < 8) (v : Nat) :
    spriteCovers x0 yy [row] (x0 + c) v = columnCovers x0 yy row c (x0 + c) v := by
  by_cases hv : v = yy
  · simp [spriteCovers, columnCovers, hv, hc]
  · have hcov : spriteCovers x0 yy [row] (x0 + c) v = false := Bool.eq_false_iff.mpr fun h =>
      hv (Nat.le_antisymm (Nat.le_of_lt_succ (spriteCovers_bounds h).bottom) (spriteCovers_bounds h).top)
    simp [columnCovers, hv, hcov]

/-- The first `k` columns of a sprite row. -/
theorem blitColumns_turnsOver (x0 yy : Nat) (row : Byte) (acc : Grid × Bool) {k : Nat} (hk : k ≤ 8) :
    TurnsOver (fun u v => decide (u < x0 + k) && spriteCovers x0 yy [row] u v) acc
      ((List.range k).foldl (blitCell x0 yy row) acc) := by
  induction k with
  | zero =>
    refine .refl (fun u v _ _ => Bool.eq_false_iff.mpr fun h => ?_) acc
    obtain ⟨hu, hcov⟩ := (Bool.and_eq_true _ _).mp h
    exact absurd (of_decide_eq_true hu) (Nat.not_lt.mpr (spriteCovers_bounds hcov).left)
  | succ k ih =>
    rw [List.range_succ, List.foldl_append]
    refine ((ih (Nat.le_of_succ_le hk)).trans (blitCell_turnsOver x0 yy row _ k) ?disjoint).congr ?union
    case disjoint =>
      intro u v h
      obtain ⟨hu, -⟩ := (Bool.and_eq_true _ _).mp h
      exact columnCovers_of_ne (Nat.ne_of_lt (of_decide_eq_true hu))
    case union =>
      intro u v
      by_cases hu : u = x0 + k
      · subst hu
        simp [spriteCovers_column x0 yy row hk]
      · have hlt : u < x0 + (k + 1) ↔ u < x0 + k := by omega
        rw [columnCovers_of_ne hu, Bool.or_false, decide_eq_decide.mpr hlt]

theorem blitRow_turnsOver (x0 yy : Nat) (row : Byte) (acc : Grid × Bool) :
    TurnsOver (spriteCovers x0 yy [row]) acc (blitRow x0 yy row acc) := by
  refine (blitColumns_turnsOver x0 yy row acc (Nat.le_refl 8)).congr fun u v => ?_
  rw [Bool.and_eq_right_iff_imp]
  exact fun hcov => decide_eq_true (spriteCovers_bounds hcov).right

theorem blitRows_turnsOver (x0 yy : Nat) (rows : List Byte) (acc : Grid × Bool) :
    TurnsOver (spriteCovers x0 yy rows) acc (blitRows x0 yy rows acc) := by
  induction rows generalizing yy acc with
  | nil => exact .refl (fun u v _ _ => spriteCovers_nil x0 yy u v) acc
  | cons row rows ih =>
    refine ((blitRow_turnsOver x0 yy row acc).trans (ih (yy + 1) _) fun u v hrow => ?_).congr
      fun u v => (spriteCovers_cons x0 yy row rows u v).symm
    refine Bool.eq_false_iff.mpr fun hrest => ?_
    exact absurd (spriteCovers_bounds hrow).bottom (Nat.not_lt.mpr (spriteCovers_bounds hrest).top)

theorem fbBlit_turnsOver (x0 y0 : Nat) (rows : List Byte) (g : Grid) :
    TurnsOver (spriteCovers x0 y0 rows) (g, false) (fbBlit x0 y0 rows g) :=
  blitRows_turnsOver x0 y0 rows (g, false)

/-- The collision bit of a blit (R224). -/
theorem fbBlit_collision_iff (x0 y0 : Nat) (rows : List Byte) (g : Grid) :
    (fbBlit x0 y0 rows g).2 = true ↔
      ∃ u v, u < 64 ∧ v < 32 ∧ g.cell u v = true ∧ spriteCovers x0 y0 rows u v = true := by
  rw [(fbBlit_turnsOver x0 y0 rows g).collision]
  exact or_iff_right Bool.false_ne_true

/-! ## The sprite in memory and the flag (R228) -/

theorem Memory.readBytes_eq_map (m : Memory) (a n : Nat) :
    m.readBytes a n = (List.range n).map fun k => m.read (a + k) := by
  induction n generalizing a with
  | zero => rfl
  | succ n ih =>
    rw [Memory.readBytes, ih, List.range_succ_eq_map, List.map_cons, List.map_map]
    simp [Function.comp_def, Nat.add_assoc, Nat.add_comm 1]

theorem flagByte_eq_one_iff (c : Bool) : flagByte c = 1 ↔ c = true := by
  cases c <;> decide

/-! ## The statements -/

/-- Settles O40: the sprite read is that of the statement, and its blit turns over what it covers. -/
theorem drawXorsTheClippedSprite : Obligations.DrawXorsTheClippedSprite := by
  intro s x y n hn
  have hfit : AccessFits (.draw x y n) s := hn.imp (congrArg BitVec.toNat) id
  refine ⟨_, exec_draw hfit, ((frameKept_enter _ s).setFb rfl _).setReg rfl _, ?cells,
    State.setFlag_reg_VF _ _, ?collision⟩
  all_goals rw [← Memory.readBytes_eq_map]
  case cells => exact (fbBlit_turnsOver _ _ _ _).cells
  case collision =>
    rw [State.blit, State.setFlag, State.reg_setReg_same, flagByte_eq_one_iff]
    exact fbBlit_collision_iff _ _ _ _

/-- Settles O41: a cell turned over twice is as before, and the second blit finds lit what the first lit. -/
theorem secondBlitRestoresTheGrid : Obligations.SecondBlitRestoresTheGrid := by
  intro g x0 y0 rows _ _
  have hfirst := (fbBlit_turnsOver x0 y0 rows g).cells
  refine ⟨Grid.ext_cells fun u v hu hv => ?restored, ?collision⟩
  case restored =>
    rw [(fbBlit_turnsOver x0 y0 rows _).cells u v hu hv, hfirst u v hu hv, Bool.xor_assoc, Bool.xor_self,
      Bool.xor_false]
  case collision =>
    rw [fbBlit_collision_iff]
    refine exists₂_congr fun u v => and_congr_right fun hu => and_congr_right fun hv =>
      and_congr_left fun hcov => ?_
    rw [hfirst u v hu hv, hcov, Bool.xor_true, Bool.not_eq_true']

/-- Settles O39: the grid written is the blank one. -/
theorem clearScreenUnlightsEveryCell : Obligations.ClearScreenUnlightsEveryCell :=
  fun s => ⟨_, rfl, (frameKept_enter _ s).setFb rfl _, fun x y _ _ => Grid.cell_blank x y⟩

end Sys2Proof.Machine
end

section
/-! # Timer and input family: the timers, the key latch and the instructions that use them (R250 to R259)

The two key skips test one condition, that the latch holds the key of the register's low nibble. A wait for a
key undoes its own fetch-advance, so that of the step only the tick stays. -/

namespace Sys2Proof.Machine

/-! ## The sound query and a key code in a register (R254, R259) -/

theorem State.soundActive_iff (s : State) : s.soundActive = true ↔ 0 < s.ST.toNat :=
  decide_eq_true_iff

theorem zextNibble_toNat (k : Nibble) : (zextNibble k).toNat = k.toNat :=
  BitVec.toNat_setWidth_of_le (by decide)

/-! ## The condition of the key skips (R257, R258) -/

/-- An empty latch holds no key, so it differs from every register's low nibble (D26). -/
theorem State.key_eq_lowNibble_iff (s : State) (x : Reg) :
    s.key = some (s.lowNibble x) ↔ ∃ k, s.key = some k ∧ k.toNat = (s.reg x).toNat % 16 := by
  rw [← State.lowNibble_toNat]
  constructor
  · intro h
    exact ⟨_, h, rfl⟩
  · rintro ⟨k, hkey, hk⟩
    exact hkey.trans (congrArg some (BitVec.eq_of_toNat_eq hk))

theorem exec_skipIf_iff_ends {i : Instr} {s : State} {c : Bool} {p : Prop} [Decidable p]
    (h : exec i s = .next (s.enter.skipIf c)) (hw : mayWritePc i = true) (hc : c = true ↔ p) :
    ∃ t, exec i s = .next t ∧ FrameKept i s t ∧ t.pc = if p then s.pc + 4 else s.pc + 2 := by
  simpa only [hc] using exec_skipIf_ends h hw

/-! ## Waiting for a key (R259) -/

/-- With an empty latch the fetch-advance is undone and the tick stays. -/
theorem exec_getKey_waits {s : State} {x : Reg} (h : s.key = none) :
    exec (.getKey x) s = .next (s.enter.setPc s.pc) := by
  rw [exec_getKey_of_none h, BitVec.add_sub_cancel]

/-! ## The statements -/

/-- Settles O42: the value written is the timer after the fetch-advance and the tick. -/
theorem getDelayReadsTheTickedTimer : Obligations.GetDelayReadsTheTickedTimer := by
  intro s x
  obtain ⟨t, h, hk, hv⟩ := exec_setReg_ends (i := .getDelay x) (s := s) rfl (beq_self_eq_true x)
  exact ⟨t, h, hk, hv ▸ tickTimer_toNat s.DT⟩

/-- Settles O43: the timer is written after the tick, so the value written is the one that stands. -/
theorem setTimers : Obligations.SetTimers :=
  fun s x =>
    ⟨⟨_, rfl, (frameKept_enter _ s).setDT ⟨x, rfl⟩ _, rfl⟩,
      ⟨_, rfl, (frameKept_enter _ s).setST ⟨x, rfl⟩ _, rfl, State.soundActive_iff _⟩⟩

/-- Settles O45: the skip's test is that the latch holds the low nibble. -/
theorem skipIfKeyPressed : Obligations.SkipIfKeyPressed :=
  fun s x => exec_skipIf_iff_ends rfl rfl (beq_iff_eq.trans (s.key_eq_lowNibble_iff x))

/-- Settles O46: the skip of O45 on the negated test. -/
theorem skipIfKeyNotPressed : Obligations.SkipIfKeyNotPressed := by
  intro s x
  simpa only [ite_not] using exec_skipIf_iff_ends (i := .skipKeyNotPressed x) rfl rfl
    (bne_iff_ne.trans (not_congr (s.key_eq_lowNibble_iff x)))

/-- Settles O47: the code is widened into the register, and the latch is in the frame. -/
theorem getKeyReadsTheLatch : Obligations.GetKeyReadsTheLatch := by
  intro s x k hkey
  have hframe := frameKept_enter (.getKey x) s
  refine ⟨_, exec_getKey_of_some hkey, hframe.setReg (beq_self_eq_true x) _, ?_, rfl⟩
  rw [State.reg_setReg_same, zextNibble_toNat]

/-- Settles O48: the state after the wait is the one before it with both timers ticked. -/
theorem getKeyWithoutAKeyRewinds : Obligations.GetKeyWithoutAKeyRewinds :=
  fun s _ hkey => ⟨_, exec_getKey_waits hkey, (frameKept_enter _ s).setPc rfl _, rfl⟩

/-- Settles O49: each event writes the one field, whatever the latch held before. -/
theorem keyEventsWriteTheLatchOnly : Obligations.KeyEventsWriteTheLatchOnly :=
  fun s k l =>
    ⟨s.keyPress_key k, (s.keyPress k).keyPress_key l, s.keyRelease_key l,
      (s.keyPress k).keyRelease_key l, rfl, rfl⟩

end Sys2Proof.Machine
end

section
/-! # Exceptions family: the five faults, and what the fault port shows after each (R281 to R289)

A step takes a fault before or in the execute phase. The faults of the execute phase have their equations with
the instructions that raise them; those of the fetch and the decode phase are `step_of_fetch_fault` and
`step_of_decode_fault`. Taking a fault is one ending, whatever the fault (`takeFault_ends`). -/

namespace Sys2Proof.Machine

/-! ## The faults before the execute phase (R282, R286) -/

section
variable {s : State}

/-- No whole word stands at `pc` (D7). -/
theorem step_of_fetch_fault (hf : s.fault = none) (hpc : 0xFFE < s.pc.toNat) :
    step s = .next (s.takeFault .fetchOutOfRange 0) := by
  have hmem : Config.memSize = 4096 := rfl
  rcases s.fetchDecode_cases with ⟨_, he⟩ | ⟨hin, _⟩
  · exact step_of_fetchDecode_error hf he
  · omega

/-- The word fetched is of no form (R88). -/
theorem step_of_decode_fault (hf : s.fault = none) (hpc : s.pc.toNat ≤ 0xFFE)
    (hd : decode s.wordAtPc = none) : step s = .next (s.takeFault .decodeFailure s.wordAtPc) := by
  have hmem : Config.memSize = 4096 := rfl
  rw [s.wordAtPc_eq] at hd ⊢
  rcases s.fetchDecode_cases with ⟨hout, _⟩ | ⟨_, w, rfl, ⟨_, he⟩ | ⟨i, hi, _⟩⟩
  · omega
  · exact step_of_fetchDecode_error hf he
  · rw [hd] at hi
    cases hi

end

/-! ## What a fault leaves (R281, R288) -/

/-- The latch alone changes, and the port shows the fault's code, the instruction's address and the word. -/
theorem takeFault_ends {r : Result} {s : State} {f : Fault} {w : Word}
    (h : r = .next (s.takeFault f w)) :
    ∃ t, r = .next t ∧ t = { s with fault := some ⟨f, s.pc, w⟩ } ∧
      t.faultPort = some (f.code, s.pc, w) :=
  ⟨_, h, rfl, s.takeFault_faultPort f w⟩

/-- The word `2NNN` as a number (R85). -/
theorem encode_call_eq_ofNat (nnn : Addr) :
    encode (.call nnn) = BitVec.ofNat 16 (0x2000 + nnn.toNat) := by
  have hfamily : (0x2 : Nibble).toNat = 2 := rfl
  have hfits : 0x2000 + nnn.toNat < 2 ^ 16 := by
    have := nnn.isLt
    omega
  apply BitVec.eq_of_toNat_eq
  rw [encode, wordA_toNat, hfamily, BitVec.toNat_ofNat, Nat.mod_eq_of_lt hfits]

/-! ## The statements -/

/-- Settles O55: a fault of the fetch or the decode phase records what the phase saw; one of the execute phase
has its cause (`FaultCause`) and records the encoding of its instruction, which is the word fetched, since no
instruction that can fault loses bits in the decoder (`latchTruthful_takeFault`). -/
theorem stepKeepsLatchTruthful : Obligations.StepKeepsLatchTruthful :=
  fun _ _ hs h => step_keeps_latchTruthful hs h

/-- Settles O37: the access does not fit, whichever of the four forms makes it. -/
theorem accessBeyondMemoryFaults : Obligations.AccessBeyondMemoryFaults :=
  fun _ _ hpos hout => takeFault_ends (exec_of_not_accessFits (not_accessFits_iff.mpr ⟨hpos, hout⟩))

/-- Settles O8: one clause for each phase before the execute phase. -/
theorem fetchAndDecodeFaults : Obligations.FetchAndDecodeFaults :=
  fun _ hf =>
    ⟨fun hpc => takeFault_ends (step_of_fetch_fault hf hpc),
      fun hpc hd => takeFault_ends (step_of_decode_fault hf hpc hd)⟩

/-- Settles O16: nothing to pop, and no room to push. -/
theorem stackFaults : Obligations.StackFaults := by
  intro s nnn
  refine ⟨fun hempty => takeFault_ends (exec_ret_of_nil hempty), fun hfull => ?_⟩
  rw [← encode_call_eq_ofNat]
  exact takeFault_ends (exec_call_of_full hfull.ge)

end Sys2Proof.Machine
end

section
/-! # Reset and hazards family: what a load leaves, and that no step is without an answer (R310 to R324)

A load has two endings, apart by the length of the image (`State.load_cases`, `State.reload_cases`): the machine
`State.loaded`, or nothing. That every step answers a next state is read off the ways an instruction ends and
the ways a step goes. -/

namespace Sys2Proof.Machine

/-! ## Every step has an answer (R324) -/

theorem exec_answers (i : Instr) (s : State) : ∃ t, exec i s = .next t := by
  rcases exec_cases i s with ⟨t, hc⟩ | ⟨_, _, hfault⟩
  · exact ⟨t, hc.result⟩
  · exact ⟨_, hfault⟩

theorem step_answers (s : State) : ∃ t, step s = .next t := by
  rcases step_cases s with ⟨_, he⟩ | ⟨_, _, he⟩ | ⟨_, _, _, _, ⟨_, he⟩ | ⟨i, _, he⟩⟩
  · exact ⟨_, he⟩
  · exact ⟨_, he⟩
  · exact ⟨_, he⟩
  · rw [he]
    exact exec_answers i s

/-! ## A load of an image that fits (R310, R311) -/

/-- The machine a load of an image that fits creates (`State.load_of_fits`). -/
def State.loaded (image : List Byte) (draws : Nat) : State :=
  { State.reset with mem := Memory.writeBytes State.reset.mem Config.progBase image, draws := draws }

theorem loadError_iff (image : List Byte) : loadError image = true ↔ 3584 < image.length := by
  rw [loadError, imageFits, Bool.not_eq_true', decide_eq_false_iff_not, Nat.not_le, Config.progMax]

section
variable {image : List Byte} (h : image.length ≤ 3584)
include h

theorem State.load_of_fits (draws : Nat) : State.load image draws = .ok (State.loaded image draws) := by
  rcases State.load_cases image draws with ⟨_, he⟩ | ⟨hlong, _⟩
  · exact he
  · exact absurd h (Nat.not_le_of_lt hlong)

theorem State.hostMove_load_of_fits (s : State) :
    s.hostMove (.load image) = State.loaded image s.draws := by
  rcases State.reload_cases s image with ⟨_, he⟩ | ⟨hlong, _⟩
  · exact he
  · exact absurd h (Nat.not_le_of_lt hlong)

theorem loadError_of_fits : loadError image = false :=
  Bool.eq_false_iff.mpr (mt (loadError_iff image).mp (Nat.not_lt_of_le h))

end

theorem State.loaded_read_image {image : List Byte} {k : Nat} (draws : Nat) (hk : k < image.length) :
    (State.loaded image draws).mem.read (0x200 + k) = image.getD k 0 :=
  Memory.read_writeBytes_add State.reset.mem Config.progBase hk

/-- Outside the image stand the font table and zeros (R33). -/
theorem State.loaded_read_outside {image : List Byte} {a : Nat} (draws : Nat)
    (ha : a < 0x200 ∨ 0x200 + image.length ≤ a) :
    (State.loaded image draws).mem.read a =
      if 0x050 ≤ a ∧ a < 0x0A0 then Config.font.getD (a - 0x050) 0 else 0 := by
  have hbase : Config.progBase = 0x200 := rfl
  have hout : ¬ (Config.progBase ≤ a ∧ a < Config.progBase + image.length) := by omega
  calc (State.loaded image draws).mem.read a
    _ = State.reset.mem.read a := by rw [State.loaded, Memory.read_writeBytes, if_neg hout]
    _ = _ := resetByte_eq_font a

/-! ## A load of a longer image (R312, D22) -/

section
variable {image : List Byte} (h : 3584 < image.length)
include h

theorem State.load_of_long (draws : Nat) : State.load image draws = .error .imageTooLong := by
  rcases State.load_cases image draws with ⟨hfits, _⟩ | ⟨_, he⟩
  · exact absurd h (Nat.not_lt_of_le hfits)
  · exact he

theorem State.hostMove_load_of_long (s : State) : s.hostMove (.load image) = s := by
  rcases State.reload_cases s image with ⟨hfits, _⟩ | ⟨_, he⟩
  · exact absurd h (Nat.not_lt_of_le hfits)
  · exact he

end

/-! ## The statements -/

/-- Settles O10: a step has an answer, and of the ways it goes the two faults before the execute phase are one
clause. -/
theorem stepAlwaysReturns : Obligations.StepAlwaysReturns := by
  refine ⟨fun s => ?_, exec_answers⟩
  obtain ⟨t, h⟩ := step_answers s
  refine ⟨t, h, ?_⟩
  rcases step_next_cases h with halted | ⟨hf, _, ht⟩ | ⟨hf, _, _, ht⟩ | ⟨hf, _, hexec⟩
  · exact .inl halted
  · exact .inr (.inr ⟨hf, _, ht⟩)
  · exact .inr (.inr ⟨hf, _, ht⟩)
  · exact .inr (.inl ⟨hf, hexec⟩)

/-- Settles O44: the timer stands at the value set (O43), and the second step reads it after its own tick
(O42). -/
theorem setDelayThenGetDelayReadsOneLess : Obligations.SetDelayThenGetDelayReadsOneLess := by
  intro s t u x y hset hget
  obtain ⟨⟨_, hset', _, hDT⟩, _⟩ := setTimers s x
  obtain rfl := next_unique hset hset'
  obtain ⟨_, hget', _, hread⟩ := getDelayReadsTheTickedTimer t y
  obtain rfl := next_unique hget hget'
  rw [hread, hDT]

/-- Settles O51: a first load and one on an existing machine leave `State.loaded`, which differs from reset in
memory and in the number of draws. -/
theorem loadPlacesTheImage : Obligations.LoadPlacesTheImage := by
  intro image draws h
  refine ⟨State.loaded image draws, State.load_of_fits h draws, fun _ => State.loaded_read_image draws,
    fun _ => State.loaded_read_outside draws, rfl, fun s => ?_⟩
  rw [State.hostMove_load_of_fits h s]
  exact ⟨loadError_of_fits h, rfl, rfl⟩

/-- Settles O52: the other ending of a load. -/
theorem loadOfALongImageChangesNothing : Obligations.LoadOfALongImageChangesNothing :=
  fun image draws s h =>
    ⟨State.load_of_long h draws, (loadError_iff image).mpr h, State.hostMove_load_of_long h s⟩

end Sys2Proof.Machine
end
